-- ==== Sys2Proof/Word.lean ====
section
/-! DEFINITION. The word types of the block: a byte, and a byte register file of fixed length. -/

namespace Sys2Proof

/-- A byte, eight bits (00_scope R10). -/
abbrev Byte := BitVec 8

/-- A byte register file `X[0..n-1]`, index 0 first (00_scope R12, R13). -/
abbrev Bytes (n : Nat) := Vector Byte n

/-- A time reading or a stored time: whole seconds since the Unix epoch, unsigned, `TIME_W = 64`
bits (00_scope R9, 60_exceptions R285). -/
abbrev Time := BitVec 64

end Sys2Proof
end

