-- ==== Sys2Proof/Config.lean ====
section
/-! DEFINITION. What a platform fixes (the OPEN parameters of 00_scope R9) and the free values of the
external agents. Every constant here that has no body is opaque: no proof can see its value. -/

namespace Sys2Proof

/-- `BUF_CAP` counted in words of four bytes above its least value 256. Bounded so that
`2 * BUF_CAP` fits the 32 bits of `DOUT_LEN` (DEDUCED, log 1). -/
opaque Config.bufUnits : Fin 536870848

/-- `BUF_CAP`, the capacity of `DIN` in bytes: "a multiple of 4, at least 256" (00_scope R9, D3). -/
def Config.bufCap : Nat := 4 * Config.bufUnits.val + 256

/-- `BASE` in units of eight bytes. -/
opaque Config.baseUnits : Nat

/-- `BASE`, the bus address of the block's first register: a multiple of 8 (20_memory R70, D4). -/
def Config.base : Nat := 8 * Config.baseUnits

/-- The block cipher: under each 16-byte key a permutation of the 16-byte blocks. This is exactly the
contract of 42_cipher_adapter R155 clauses 1 to 3 (pure, total, the two directions invert each
other); clause 4, the algorithm, is not used (log 2). -/
opaque Config.cipher : Bytes 16 → Equiv.Perm (Bytes 16)

/-- `E(k, b)`, encryption of one block (42_cipher_adapter R155). -/
def Config.E (k b : Bytes 16) : Bytes 16 := Config.cipher k b

/-- `Dc(k, b)`, decryption of one block (42_cipher_adapter R155). -/
def Config.Dc (k b : Bytes 16) : Bytes 16 := (Config.cipher k).symm b

/-- FREE VALUE (log 3): the `k`-th time reading after the listed ones ran out. -/
opaque Config.freeTime : Nat → Time

/-- FREE VALUE (log 3): the `k`-th answer of the random source after the listed ones ran out,
`none` a failure. -/
opaque Config.freeDraw : Nat → Option (BitVec 128)

end Sys2Proof
end

