-- ==== Sys2Proof/Syntax.lean ====
section
/-! DEFINITION. The sixteen commands of 30_encoding R92 and the host's actions of 30_encoding R104. -/

namespace Sys2Proof

/-- A command of the block, one constructor per row of the table of 30_encoding R92. A command word
has no operand field (R90); the operands are registers and buffers (R91). -/
inductive Instr where
  /-- `MHX_ENC`, bytes to Alphabet-A text (R128). -/
  | mhxEnc
  /-- `MHX_DEC`, Alphabet-A text to bytes (R129). -/
  | mhxDec
  /-- `HEX_ENC`, bytes to hex text (R130). -/
  | hexEnc
  /-- `HEX_DEC`, hex text to bytes (R131). -/
  | hexDec
  /-- `CRC16`, 16-bit checksum of a byte sequence (R144). -/
  | crc16
  /-- `AES_ENC`, encrypt one 16-byte block (R158). -/
  | aesEnc
  /-- `AES_DEC`, decrypt one 16-byte block (R159). -/
  | aesDec
  /-- `BLK_STAMP`, stamp the block operand registers (R177). -/
  | blkStamp
  /-- `BLK_SER`, serialize the block operand registers (R178). -/
  | blkSer
  /-- `BLK_EMIT`, stamp, serialize, encrypt, encode (R179). -/
  | blkEmit
  /-- `CREATE`, a fresh identity (R191). -/
  | create
  /-- `CREATE_OVR`, Create-with-overrides (R195). -/
  | createOvr
  /-- `EMIT_OTP`, Emit OTP (R200). -/
  | emitOtp
  /-- `REG_EXPORT`, Registration export (R220). -/
  | regExport
  /-- `REC_LOAD`, parse a persisted record into the token registers (R238). -/
  | recLoad
  /-- `REC_SAVE`, render the token registers as a persisted record (R242). -/
  | recSave
  deriving DecidableEq, Repr

/-- What reaches the block from outside, one entry per model step, oldest first (log 4). -/
inductive HostAct where
  /-- `MemWrite(addr, n, v)`: a host write of the low `n` bytes of `v` at bus address `addr`
  (00_scope R14). `WR REG, v` and `CMD MNEMONIC` of 30_encoding R104 are such writes. -/
  | write (addr n : Nat) (v : BitVec 64)
  /-- `MemRead(addr, n)`: a host read of `n` bytes at bus address `addr` (00_scope R14). -/
  | read (addr n : Nat)
  /-- The reset event (70_reset_and_hazards R300). -/
  | reset
  /-- Scheduling mark, not a host action: the block runs to the completion of the command in flight,
  or into its wait, or asks the time source once if it waits already (log 5). -/
  | run
  /-- Scheduling mark, not a host action: the sequencer makes one move (log 5). -/
  | tick
  deriving DecidableEq, Repr

end Sys2Proof
end

