-- ==== Sys2Proof/WellFormed.lean ====
section
/-! DEFINITION. When a command and a host action are well formed. -/

namespace Sys2Proof

/-- A command carries no operand, so every command is well formed (30_encoding R90, R91). -/
def Instr.wellFormed : Instr → Bool
  | .mhxEnc | .mhxDec | .hexEnc | .hexDec | .crc16 | .aesEnc | .aesDec | .blkStamp | .blkSer
  | .blkEmit | .create | .createOvr | .emitOtp | .regExport | .recLoad | .recSave => true

/-- The access sizes of the bus: the container sizes 1, 2, 4 and 8 bytes (20_memory R70). -/
def sizeOk (n : Nat) : Bool := n == 1 || n == 2 || n == 4 || n == 8

/-- A host access is well formed when its size is a container size and its address is a multiple of
it: "every legal access is naturally aligned" (20_memory R70). -/
def HostAct.wellFormed : HostAct → Bool
  | .write addr n _ => sizeOk n && addr % n == 0
  | .read addr n => sizeOk n && addr % n == 0
  | .reset => true
  | .run => true
  | .tick => true

end Sys2Proof
end

