-- ==== Sys2Proof/Decode.lean ====
section
/-! DEFINITION. Decoding a command word and encoding a command (30_encoding R90 to R93). -/

namespace Sys2Proof

/-- Why a word is no command. -/
inductive DecodeError where
  /-- No byte was given. -/
  | noWord
  /-- The code is not in the table of 30_encoding R92: `IllegalCommand` (R93, R100). -/
  | illegalCommand
  deriving DecidableEq, Repr

/-- Every row of the command table, in the table's order (30_encoding R92). -/
def Instr.all : List Instr :=
  [.mhxEnc, .mhxDec, .hexEnc, .hexDec, .crc16, .aesEnc, .aesDec, .blkStamp, .blkSer, .blkEmit,
   .create, .createOvr, .emitOtp, .regExport, .recLoad, .recSave]

/-- The command of a code; decoding compares all eight bits (30_encoding R93). -/
def decodeByte (v : Byte) : Except DecodeError Instr :=
  match v.toNat with
  | 0x10 => .ok .mhxEnc
  | 0x11 => .ok .mhxDec
  | 0x12 => .ok .hexEnc
  | 0x13 => .ok .hexDec
  | 0x20 => .ok .crc16
  | 0x30 => .ok .aesEnc
  | 0x31 => .ok .aesDec
  | 0x40 => .ok .blkStamp
  | 0x41 => .ok .blkSer
  | 0x42 => .ok .blkEmit
  | 0x50 => .ok .create
  | 0x51 => .ok .createOvr
  | 0x52 => .ok .emitOtp
  | 0x53 => .ok .regExport
  | 0x60 => .ok .recLoad
  | 0x61 => .ok .recSave
  | _ => .error .illegalCommand

/-- Decoding a byte sequence: one byte is one command, the rest is left over ("one command length,
one format, and no prefix", 30_encoding R90, R102). -/
def decode : List Byte → Except DecodeError (Instr × List Byte)
  | [] => .error .noWord
  | v :: rest =>
    match decodeByte v with
    | .ok i => .ok (i, rest)
    | .error e => .error e

/-- The family, bits 7 to 4 of the command word (30_encoding R90). -/
def Instr.fam : Instr → BitVec 4
  | .mhxEnc | .mhxDec | .hexEnc | .hexDec => 0x1
  | .crc16 => 0x2
  | .aesEnc | .aesDec => 0x3
  | .blkStamp | .blkSer | .blkEmit => 0x4
  | .create | .createOvr | .emitOtp | .regExport => 0x5
  | .recLoad | .recSave => 0x6

/-- The operation within the family, bits 3 to 0 of the command word (30_encoding R90, R92). -/
def Instr.op : Instr → BitVec 4
  | .mhxEnc | .crc16 | .aesEnc | .blkStamp | .create | .recLoad => 0x0
  | .mhxDec | .aesDec | .blkSer | .createOvr | .recSave => 0x1
  | .hexEnc | .blkEmit | .emitOtp => 0x2
  | .hexDec | .regExport => 0x3

/-- The command code: family above operation (30_encoding R90). -/
def Instr.code (i : Instr) : Byte := i.fam ++ i.op

/-- The encoder: the one byte of a command. -/
def encode (i : Instr) : List Byte := [i.code]

/-- The first `n` bytes of a word whose bit 0 is the least significant bit of the first byte. -/
def wordBytes : Nat → Nat → List Byte
  | 0, _ => []
  | n + 1, w => BitVec.ofNat 8 w :: wordBytes n (w / 256)

/-- The command byte of a table word of `nbits` bits: the bits above `nbits` are 0. -/
def commandByte (nbits w : Nat) : Byte := BitVec.ofNat 8 (w % 2 ^ nbits)

/-- The command the decoder reads from a table word (`nbits` bits, bit 0 the least significant bit of
the first byte), laid out as bytes, at least the one byte of the only format `CMD8`. -/
def decodeTableWord (nbits w : Nat) : Option Instr :=
  match decode (wordBytes (max 1 (nbits / 8)) (w % 2 ^ nbits)) with
  | .ok (i, _) => some i
  | .error _ => none

end Sys2Proof
end

