-- ==== Sys2Proof/Machine/State.lean ====
section
/-! DEFINITION. The state of the block (10_state), the reasons a step can stop, and the state after
reset (10_state R36). State is plain data. -/

namespace Sys2Proof.Machine

/-- A byte buffer: the bytes that are not `0x00`, as (index, byte) cells with the index strictly
rising. What an unlisted index reads as is `0x00`, the reset content of every buffer byte (R36). -/
abbrev Memory := List Host.Cell

/-- The eight token registers: Secret Material (10_state R21) and Token State (10_state R22). -/
structure Token where
  /-- `PUBID[0..5]` -/
  pubId : Bytes 6
  /-- `PRIVID[0..5]` -/
  privId : Bytes 6
  /-- `KEY[0..15]` -/
  key : Bytes 16
  /-- `COUNTER` -/
  counter : BitVec 16
  /-- `SESSION` -/
  session : BitVec 8
  /-- `CREATED` -/
  created : Time
  /-- `LASTUSE` -/
  lastUse : Time
  /-- `PONRAND` -/
  ponRand : BitVec 32
  deriving DecidableEq, Repr

/-- One OTP block, six fields (43_block_codec R170). The operand registers `F_UID` to `F_CRC` hold one
(10_state R24). -/
structure Block where
  /-- `F_UID[0..5]` -/
  uid : Bytes 6
  /-- `F_CTR` -/
  ctr : BitVec 16
  /-- `F_TSTP` -/
  tstp : BitVec 24
  /-- `F_SESS` -/
  sess : BitVec 8
  /-- `F_RND` -/
  rnd : BitVec 16
  /-- `F_CRC` -/
  crc : BitVec 16
  deriving DecidableEq, Repr

/-- The operand registers of `CREATE_OVR` (10_state R26). -/
structure Overrides where
  /-- `OVR_MASK`: bit 0 `PUB`, bit 1 `PRIV`, bit 2 `KEYB` -/
  mask : BitVec 3
  /-- `OVR_PUBID[0..5]` -/
  pubId : Bytes 6
  /-- `OVR_PRIVID[0..5]` -/
  privId : Bytes 6
  /-- `OVR_KEY[0..15]` -/
  key : Bytes 16
  /-- `INITCTR` -/
  initCtr : BitVec 16
  deriving DecidableEq, Repr

/-- The six flags of `STATUS` (10_state R30); the register as a byte is `Status.toByte`. -/
structure Status where
  /-- bit 0, `BUSY`: a command is in flight -/
  busy : Bool
  /-- bit 1, `DONE`: a command has completed since the last start -/
  done : Bool
  /-- bit 2, `ERRF`: that command ended with an error -/
  errf : Bool
  /-- bit 3, `WAIT`: `EMIT_OTP` is held in its wait -/
  wait : Bool
  /-- bit 4, `TOKEN`: a token is present -/
  token : Bool
  /-- bit 5, `MUSTP`: an emission since the last save, load or create -/
  mustp : Bool
  deriving DecidableEq, Repr

/-- Where an `EMIT_OTP` in flight stands: the seven steps of 44_state_machine R200, the wait of
step 3 (`hold`), and the end of step 3 after the wait (`collideEnd`). -/
inductive EmitStage where
  /-- step 1, advance session and counter -/
  | advance
  /-- step 2, read the current time -/
  | clock
  /-- step 3, anti-collision -/
  | collide
  /-- the wait of step 3, case C (R208) -/
  | hold
  /-- the end of step 3 after the wait -/
  | collideEnd
  /-- step 4, timestamp -/
  | stamp
  /-- step 5, random -/
  | random
  /-- step 6, build the block and emit -/
  | build
  /-- step 7, prepend the Public ID and commit -/
  | finish
  deriving DecidableEq, Repr

/-- The local values of an `EMIT_OTP` in flight (10_state R34 clauses 1 and 2). -/
structure EmitLocals where
  /-- `c` -/
  ctr : BitVec 16
  /-- `s` -/
  sess : BitVec 8
  /-- `lu` -/
  lastUse : Time
  /-- `pr` -/
  ponRand : BitVec 32
  /-- `now` -/
  now : Time
  /-- `tstp` -/
  tstp : BitVec 24
  /-- `rnd` -/
  rnd : BitVec 16
  /-- `k`, the stamped checksum of the ephemeral block -/
  crc : BitVec 16
  /-- `text`, the 32 characters `Emit` answered -/
  text : List Byte
  deriving DecidableEq, Repr

/-- What is in flight. -/
inductive Flight where
  /-- no command -/
  | idle
  /-- a code taken by a `CMD` write whose command has not run yet -/
  | latched (code : Byte)
  /-- an `EMIT_OTP` between two of its steps -/
  | emit (stage : EmitStage) (locals : EmitLocals)
  deriving DecidableEq, Repr

/-- The answers the external agents give next: the MODEL's own field (10_state R35, log 3). -/
structure Agents where
  /-- the time source's next readings -/
  times : List Time
  /-- the random source's next answers, `none` a failure; a draw of `n` bits takes the low `n` -/
  draws : List (Option (BitVec 128))
  /-- how many unlisted readings were taken -/
  timeCount : Nat
  /-- how many unlisted draws were taken -/
  drawCount : Nat
  deriving DecidableEq, Repr

/-- The state of the block: exactly what 10_state R20 and R34 name, and the model's own fields
`agents`, `inputs`, `busData`. -/
structure State where
  /-- Secret Material and Token State (R21, R22) -/
  token : Token
  /-- the block operand registers (R24) -/
  block : Block
  /-- the override operand registers (R26) -/
  ovr : Overrides
  /-- `DIN` (R27) -/
  din : Memory
  /-- `DIN_LEN` (R27) -/
  dinLen : BitVec 32
  /-- `KIN` (R27) -/
  kin : Memory
  /-- `KIN_LEN` (R27) -/
  kinLen : BitVec 8
  /-- `DOUT` (R27) -/
  dout : Memory
  /-- `DOUT_LEN` (R27) -/
  doutLen : BitVec 32
  /-- `CRCREG` (R28) -/
  crcReg : BitVec 16
  /-- `STATUS` (R30) -/
  status : Status
  /-- `ERR` (R32) -/
  err : BitVec 8
  /-- `SEQ` (R33) -/
  seq : BitVec 8
  /-- the command in flight and its local values (R29, R34) -/
  flight : Flight
  /-- the MODEL's own: the external agents' next answers (log 3) -/
  agents : Agents
  /-- the MODEL's own: the host's next actions, oldest first (log 4) -/
  inputs : List HostAct
  /-- the MODEL's own: the data of the last host read (log 6) -/
  busData : Option (BitVec 64)
  deriving DecidableEq, Repr

/-- Why the machine stops with a fault. -/
inductive Fault where
  /-- Raised by the bus (Machine/Bus.lean) when a host access starts outside the register space
  `BASE` to `BASE + 0x1000 + 3 * BUF_CAP - 1` (00_scope R14, 20_memory R60): that address does not
  exist. Safe: the model stops where a platform's bus would answer in its own way (log 10). -/
  | outsideRegisterSpace
  deriving DecidableEq, Repr

/-- Why the model refuses to say what happens. -/
inductive Refusal where
  /-- Raised by `exec` for a command that has no meaning in this model (none is left). Safe. -/
  | notModelled (mnemonic : String)
  /-- Raised by the bus (Machine/Bus.lean) for an access that is not one whole naturally aligned
  scalar or one byte of an array: "has no defined effect" (20_memory R70, 93 U14). Safe. -/
  | undefinedAccess
  deriving DecidableEq, Repr

/-- Token registers of zeros (10_state R36). -/
def Token.zero : Token :=
  { pubId := Vector.replicate 6 0, privId := Vector.replicate 6 0, key := Vector.replicate 16 0,
    counter := 0, session := 0, created := 0, lastUse := 0, ponRand := 0 }

/-- Block operand registers of zeros (10_state R36). -/
def Block.zero : Block :=
  { uid := Vector.replicate 6 0, ctr := 0, tstp := 0, sess := 0, rnd := 0, crc := 0 }

/-- Override operand registers of zeros (10_state R36). -/
def Overrides.zero : Overrides :=
  { mask := 0, pubId := Vector.replicate 6 0, privId := Vector.replicate 6 0,
    key := Vector.replicate 16 0, initCtr := 0 }

/-- The machine right after reset: every register and buffer byte zero (10_state R36). The model's own
fields are empty (DESIGN CHOICE, logs 3, 4, 6). -/
def State.reset : State :=
  { token := Token.zero, block := Block.zero, ovr := Overrides.zero,
    din := [], dinLen := 0, kin := [], kinLen := 0, dout := [], doutLen := 0, crcReg := 0,
    status := { busy := false, done := false, errf := false, wait := false, token := false,
                mustp := false },
    err := 0, seq := 0, flight := .idle,
    agents := { times := [], draws := [], timeCount := 0, drawCount := 0 },
    inputs := [], busData := none }

end Sys2Proof.Machine
end

