-- ==== Sys2Proof/Machine/Flags.lean ====
section
/-! DEFINITION. The flags of `STATUS` and what sets and clears each (10_state R30), the sequencer step
`SEQ` (R33), and the error codes of `ERR` (60_exceptions R260). -/

namespace Sys2Proof.Machine

/-- The ten errors (60_exceptions R260). -/
inductive CmdError where
  /-- text of odd length or with a character outside the alphabet (R261) -/
  | invalidEncoding
  /-- a key or block not of 16 bytes, a record field of the wrong size (R262) -/
  | invalidLength
  /-- the random source failed to deliver (R263) -/
  | randomSourceFailure
  /-- a session wrap is due and Counter is at or above `0x7FFF` (R264) -/
  | counterExhausted
  /-- a stored time is later than the reading (R265) -/
  | clockRollback
  /-- file system errors: host only, never raised by the block (R266) -/
  | persistenceIOFailure
  /-- the code written to `CMD` is not a command (R267) -/
  | illegalCommand
  /-- a command that needs a token ran without one (R269) -/
  | noToken
  /-- a length register exceeds its buffer, or `INITCTR = 0xFFFF` (R268) -/
  | badOperand
  /-- a decimal value in a record is malformed or too large (R271) -/
  | badRecord
  deriving DecidableEq, Repr

/-- The code placed in `ERR` (60_exceptions R260). -/
def CmdError.code : CmdError → BitVec 8
  | .invalidEncoding => 0x01
  | .invalidLength => 0x02
  | .randomSourceFailure => 0x03
  | .counterExhausted => 0x04
  | .clockRollback => 0x05
  | .persistenceIOFailure => 0x06
  | .illegalCommand => 0x80
  | .noToken => 0x81
  | .badOperand => 0x82
  | .badRecord => 0x83

/-- `STATUS` as the host reads it: bits 7 and 6 are always 0 (10_state R30). -/
def Status.toByte (f : Status) : Byte :=
  0#2 ++ BitVec.ofBool f.mustp ++ BitVec.ofBool f.token ++ BitVec.ofBool f.wait
    ++ BitVec.ofBool f.errf ++ BitVec.ofBool f.done ++ BitVec.ofBool f.busy

/-- The flags when a command starts: `BUSY` set, `DONE` and `ERRF` cleared (10_state R30). -/
def Status.started (f : Status) : Status := { f with busy := true, done := false, errf := false }

/-- The flags when a command completes without error: `BUSY` cleared, `DONE` set (10_state R30). -/
def Status.succeeded (f : Status) : Status := { f with busy := false, done := true }

/-- The flags when a command raises an error (60_exceptions R270 clause 3). -/
def Status.failed (f : Status) : Status :=
  { f with busy := false, done := true, errf := true, wait := false }

/-- `TOKEN` set and `MUSTP` cleared: `CREATE`, `CREATE_OVR` and `REC_LOAD` on success (10_state R30). -/
def Status.tokenLoaded (f : Status) : Status := { f with token := true, mustp := false }

/-- `MUSTP` set: `EMIT_OTP` on success (10_state R30). -/
def Status.emitted (f : Status) : Status := { f with mustp := true }

/-- `MUSTP` cleared: `REC_SAVE` on success (10_state R30). -/
def Status.saved (f : Status) : Status := { f with mustp := false }

/-- `WAIT` set: `EMIT_OTP` enters the wait (10_state R30, 44_state_machine R208). -/
def Status.waiting (f : Status) : Status := { f with wait := true }

/-- `WAIT` cleared: the wait ends (10_state R30). -/
def Status.waitOver (f : Status) : Status := { f with wait := false }

/-- The value of `SEQ` at each stage of `EMIT_OTP`: the step number, `0x08` in the wait (R33). -/
def EmitStage.seq : EmitStage → BitVec 8
  | .advance => 0x01
  | .clock => 0x02
  | .collide => 0x03
  | .hold => 0x08
  | .collideEnd => 0x03
  | .stamp => 0x04
  | .random => 0x05
  | .build => 0x06
  | .finish => 0x07

/-- The value of `SEQ` once a command has started: step 1 for `EMIT_OTP`, `0x10` for any other (R33). -/
def startSeq (i : Instr) : BitVec 8 := if i = .emitOtp then 0x01 else 0x10

end Sys2Proof.Machine
end

