-- ==== Sys2Proof/Machine/Ops.lean ====
section
/-! DEFINITION. The named operations every command is written with: buffers, byte order, starting a
command, completing it, raising an error (60_exceptions R270), and the calls to the external agents. -/

namespace Sys2Proof.Machine

/-! ## Buffers -/

/-- The byte at index `a`; an unlisted byte reads `0x00` (10_state R36). -/
def Memory.read : Memory → Nat → Byte
  | [], _ => 0
  | c :: m, a => if c.1 = a then c.2 else Memory.read m a

/-- The buffer with byte `b` at index `a`, in canonical form: the indices stay strictly rising, and
writing `0x00` removes the cell. -/
def Memory.write : Memory → Nat → Byte → Memory
  | [], a, b => if b = 0 then [] else [(a, b)]
  | c :: m, a, b =>
    if c.1 < a then c :: Memory.write m a b
    else if c.1 = a then (if b = 0 then m else (a, b) :: m)
    else if b = 0 then c :: m else (a, b) :: c :: m

/-- The buffer with the bytes of `bs` written from index `a` upwards. -/
def Memory.writeBytes : Memory → Nat → List Byte → Memory
  | m, _, [] => m
  | m, a, b :: bs => Memory.writeBytes (Memory.write m a b) (a + 1) bs

/-- The byte sequence `X[0..n)` (00_scope R12). -/
def Memory.readBytes (m : Memory) (n : Nat) : List Byte := (List.range n).map (Memory.read m)

/-- The canonical form: indices strictly rising, no listed byte `0x00`. -/
abbrev Memory.wf (m : Memory) : Prop := m.Pairwise (fun x y => x.1 < y.1) ∧ ∀ c ∈ m, c.2 ≠ 0

/-- Every listed index is below the capacity `n` (10_state R27). -/
abbrev Memory.within (m : Memory) (n : Nat) : Prop := ∀ c ∈ m, c.1 < n

/-! ## Byte sequences and byte order -/

/-- The ASCII code of a character (93 G1). -/
def ascii (c : Char) : Byte := BitVec.ofNat 8 c.toNat

/-- The ASCII codes of a text. -/
def asciiText (cs : List Char) : List Byte := cs.map ascii

/-- Byte `i` of a value, byte 0 the least significant. -/
def byteOf {w : Nat} (v : BitVec w) (i : Nat) : Byte := v.extractLsb' (8 * i) 8

/-- `le16(v)`, the low byte first (00_scope R12). -/
def le16 (v : BitVec 16) : List Byte := [byteOf v 0, byteOf v 1]

/-- `from_le16([x, y])` (00_scope R12). -/
def fromLe16 (x y : Byte) : BitVec 16 := y ++ x

/-- A byte sequence of exactly `n` bytes as a register file, or nothing. -/
def toBytes (n : Nat) (l : List Byte) : Option (Bytes n) :=
  if h : l.length = n then some ⟨l.toArray, by simpa using h⟩ else none

/-- `DrawBytes(n)`: the `8 * n` drawn bits cut into bytes, the most significant byte first. The cut is
not observable (00_scope R16, log 8). -/
def bytesOfDraw (n : Nat) (v : BitVec (8 * n)) : Bytes n :=
  Vector.ofFn fun i => byteOf v (n - 1 - i.val)

/-- `pr & 0xFFFFFFF0`, the low nibble cleared (30_encoding R99, 44_state_machine R217). -/
def clearNibble (pr : BitVec 32) : BitVec 32 := pr &&& 0xFFFFFFF0

/-- `pr[3:0]`, the low nibble of PonRand (00_scope R10). -/
def lowNibble (pr : BitVec 32) : BitVec 4 := pr.extractLsb' 0 4

/-! ## Starting, completing, and the error entry -/

/-- A command starts: `BUSY` set, the indications of the command before cleared, `SEQ` at its first
step (10_state R30, R32, R33). This is also the only return from an error: "the error indication is
cleared by starting the next command" (60_exceptions R274). -/
def State.begin (seq : BitVec 8) (s : State) : State :=
  { s with status := s.status.started, err := 0, seq := seq }

/-- A command completes without error: `BUSY` to 0 and `DONE` to 1 at one instant, `SEQ` idle
(20_memory R80, 10_state R33). -/
def State.complete (s : State) : State :=
  { s with status := s.status.succeeded, seq := 0, flight := .idle }

/-- ERROR ENTRY, the block's only exception (60_exceptions R270): the command ends without a commit;
`ERR`, `STATUS` and `SEQ` are written, every other register and buffer keeps its value; the local
values of the command are gone. -/
def State.raise (e : CmdError) (s : State) : State :=
  { s with status := s.status.failed, err := e.code, seq := 0, flight := .idle }

/-- The commit of a result: the bytes go to `DOUT[0..len)`, `DOUT_LEN` becomes their number, the bytes
above keep their values (10_state R27). -/
def State.putResult (bs : List Byte) (s : State) : State :=
  { s with dout := s.dout.writeBytes 0 bs, doutLen := BitVec.ofNat 32 bs.length }

/-- The end of a command that computed a result or an error: commit and complete, or the error
entry. -/
def State.finishWith {α : Type} (r : Except CmdError α) (commit : α → State → State) (s : State) :
    State :=
  match r with
  | .ok v => (commit v s).complete
  | .error e => s.raise e

/-! ## The external agents (60_exceptions R285 to R287) -/

/-- `Now()`: the next reading of the time source (00_scope R16); a free value once the listed readings
ran out (log 3). -/
def Agents.now (a : Agents) : Time × Agents :=
  match a.times with
  | t :: ts => (t, { a with times := ts })
  | [] => (Config.freeTime a.timeCount, { a with timeCount := a.timeCount + 1 })

/-- The `k`-th reading the time source gives from now on, the next one the 0th (log 3). -/
def Agents.reading (a : Agents) (k : Nat) : Time :=
  match a.times[k]? with
  | some t => t
  | none => Config.freeTime (a.timeCount + (k - a.times.length))

/-- The next answer of the random source; a free value once the listed answers ran out (log 3). -/
def Agents.answer (a : Agents) : Option (BitVec 128) × Agents :=
  match a.draws with
  | d :: ds => (d, { a with draws := ds })
  | [] => (Config.freeDraw a.drawCount, { a with drawCount := a.drawCount + 1 })

/-- `Now()` inside a command: the rest of the command runs on the reading. -/
def State.withNow (s : State) (k : Time → State → State) : State :=
  k s.agents.now.1 { s with agents := s.agents.now.2 }

/-- `Draw(n)` inside a command: the rest runs on the `n` bits, or the command raises
`RandomSourceFailure` (00_scope R16, 60_exceptions R263). -/
def State.withDraw (n : Nat) (s : State) (k : BitVec n → State → State) : State :=
  match s.agents.answer.1 with
  | some v => k (v.setWidth n) { s with agents := s.agents.answer.2 }
  | none => State.raise .randomSourceFailure { s with agents := s.agents.answer.2 }

/-- `DrawBytes(n)` unless the bytes are supplied: then nothing is drawn (44_state_machine R195, D25). -/
def State.withBytes (n : Nat) (supplied : Option (Bytes n)) (s : State)
    (k : Bytes n → State → State) : State :=
  match supplied with
  | some b => k b s
  | none => s.withDraw (8 * n) fun v s => k (bytesOfDraw n v) s

end Sys2Proof.Machine
end

