-- ==== Sys2Proof/Machine/Operands.lean ====
section
/-! DEFINITION. The operand forms of the commands (20_memory R71, 30_encoding R91): the byte sequence
in `DIN`, the key in `KIN`, the block operand registers, the override operands, the token registers. -/

namespace Sys2Proof.Machine

/-- `DIN_LEN > BUF_CAP` (60_exceptions R268). -/
abbrev State.dinTooLong (s : State) : Prop := Config.bufCap < s.dinLen.toNat

/-- `KIN_LEN > 32` (60_exceptions R268). -/
abbrev State.kinTooLong (s : State) : Prop := 32 < s.kinLen.toNat

/-- The operand `DIN[0..DIN_LEN)` (10_state R27). -/
def State.dinOperand (s : State) : List Byte := s.din.readBytes s.dinLen.toNat

/-- The key operand `KIN[0..KIN_LEN)` (10_state R27). -/
def State.kinOperand (s : State) : List Byte := s.kin.readBytes s.kinLen.toNat

/-- A command whose operand is `DIN[0..DIN_LEN)`: `BadOperand` for a length beyond the buffer, else the
rest runs on the bytes (60_exceptions R268). -/
def State.withDin (s : State) (k : List Byte → State → State) : State :=
  if s.dinTooLong then s.raise .badOperand else k s.dinOperand s

/-- A command whose operand is the key `KIN[0..KIN_LEN)`. -/
def State.withKin (s : State) (k : List Byte → State → State) : State :=
  if s.kinTooLong then s.raise .badOperand else k s.kinOperand s

/-- A command that needs a token: `NoToken` when `STATUS.TOKEN = 0` (60_exceptions R269). -/
def State.withToken (s : State) (k : State → State) : State :=
  if s.status.token then k s else s.raise .noToken

/-- The supplied Public ID, when mask bit 0 `PUB` is set (10_state R26). -/
def Overrides.suppliedPubId (o : Overrides) : Option (Bytes 6) :=
  if o.mask.getLsbD 0 then some o.pubId else none

/-- The supplied Private ID, when mask bit 1 `PRIV` is set (10_state R26). -/
def Overrides.suppliedPrivId (o : Overrides) : Option (Bytes 6) :=
  if o.mask.getLsbD 1 then some o.privId else none

/-- The supplied key, when mask bit 2 `KEYB` is set (10_state R26). -/
def Overrides.suppliedKey (o : Overrides) : Option (Bytes 16) :=
  if o.mask.getLsbD 2 then some o.key else none

end Sys2Proof.Machine
end

