-- ==== Sys2Proof/Machine/Checksum.lean ====
section
/-! DEFINITION. The checksum engine (41_checksum). -/

namespace Sys2Proof.Machine

/-- One step of the reversed-polynomial update: shift right, exclusive-or with `0x8408` when the
shifted-out bit was 1 (41_checksum R141). -/
def crcShift (c : BitVec 16) : BitVec 16 :=
  if c.getLsbD 0 then (c >>> 1) ^^^ 0x8408 else c >>> 1

/-- `n` steps of the update. -/
def crcShifts : Nat → BitVec 16 → BitVec 16
  | 0, c => c
  | n + 1, c => crcShifts n (crcShift c)

/-- One byte enters the low eight bits of the register, then eight steps (41_checksum R141). -/
def crcByte (c : BitVec 16) (b : Byte) : BitVec 16 := crcShifts 8 (c ^^^ b.setWidth 16)

/-- `Crc16(data)`, initial register `0xFFFF`, no final exclusive-or (41_checksum R141). -/
def crc16 (data : List Byte) : BitVec 16 := data.foldl crcByte 0xFFFF

/-- One data bit: the bit-serial form of 41_checksum R142. -/
def crcBit (c : BitVec 16) (d : Bool) : BitVec 16 :=
  if (c.getLsbD 0 ^^ d) then (c >>> 1) ^^^ 0x8408 else c >>> 1

/-- The eight bits of a byte, bit 0 first (41_checksum R142). -/
def crcByteSerial (c : BitVec 16) (b : Byte) : BitVec 16 :=
  (List.range 8).foldl (fun c i => crcBit c (b.getLsbD i)) c

/-- The bit-serial form of the checksum (41_checksum R142). -/
def crc16Serial (data : List Byte) : BitVec 16 := data.foldl crcByteSerial 0xFFFF

/-- `CRC16` (41_checksum R144). -/
def execCrc16 (s : State) : Host.Outcome State Fault Refusal :=
  .next ((s.begin 0x10).withDin fun b s => { s with crcReg := crc16 b }.complete)

end Sys2Proof.Machine
end

