-- ==== Sys2Proof/Machine/CipherAdapter.lean ====
section
/-! DEFINITION. The block cipher adapter (42_cipher_adapter). -/

namespace Sys2Proof.Machine

/-- The adapter's one check: key and block of exactly 16 bytes each, else `InvalidLength`; bytes pass
in index order (42_cipher_adapter R156, R157; 20_memory R64). -/
def cipherCall (f : Bytes 16 → Bytes 16 → Bytes 16) (key block : List Byte) :
    Except CmdError (Bytes 16) :=
  match toBytes 16 key, toBytes 16 block with
  | some k, some b => .ok (f k b)
  | _, _ => .error .invalidLength

/-- `CipherEnc(key, block)` (42_cipher_adapter R157). -/
def cipherEnc (key block : List Byte) : Except CmdError (Bytes 16) := cipherCall Config.E key block

/-- `CipherDec(key, block)` (42_cipher_adapter R157). -/
def cipherDec (key block : List Byte) : Except CmdError (Bytes 16) := cipherCall Config.Dc key block

/-- `AES_ENC` (42_cipher_adapter R158). -/
def execAesEnc (s : State) : Host.Outcome State Fault Refusal :=
  .next ((s.begin 0x10).withDin fun block s => s.withKin fun key s =>
    s.finishWith (cipherEnc key block) fun ct s => s.putResult ct.toList)

/-- `AES_DEC` (42_cipher_adapter R159). -/
def execAesDec (s : State) : Host.Outcome State Fault Refusal :=
  .next ((s.begin 0x10).withDin fun block s => s.withKin fun key s =>
    s.finishWith (cipherDec key block) fun pt s => s.putResult pt.toList)

end Sys2Proof.Machine
end

