-- ==== Sys2Proof/Machine/TextCodecs.lean ====
section
/-! DEFINITION. The text codecs: Alphabet-A and hex (40_text_codecs). -/

namespace Sys2Proof.Machine

/-- `ALPHA_A[k]`, `cbdefghijklnrtuv`: the lower-case symbol of a nibble (40_text_codecs R120). -/
def alphaA (k : BitVec 4) : Byte :=
  (asciiText ['c', 'b', 'd', 'e', 'f', 'g', 'h', 'i', 'j', 'k', 'l', 'n', 'r', 't', 'u', 'v']).getD
    k.toNat 0

/-- `HEXD[k]`, the lower-case hex digit of a nibble (40_text_codecs R124). -/
def hexD (k : BitVec 4) : Byte :=
  (asciiText ['0', '1', '2', '3', '4', '5', '6', '7', '8', '9', 'a', 'b', 'c', 'd', 'e', 'f']).getD
    k.toNat 0

/-- The upper-case form of a lower-case letter, `0x20` less; every other byte is its own (93 G1). -/
def upperCase (ch : Byte) : Byte := if 0x61 ≤ ch ∧ ch ≤ 0x7A then ch - 0x20 else ch

/-- The sixteen nibble values in order. -/
def allNibbles : List (BitVec 4) := (List.range 16).map (BitVec.ofNat 4)

/-- The nibble whose symbol is `ch`, in either case, or `none` (40_text_codecs R123, R124). -/
def symbolValue (sym : BitVec 4 → Byte) (ch : Byte) : Option (BitVec 4) :=
  allNibbles.find? fun k => ch == sym k || ch == upperCase (sym k)

/-- `AVAL(ch)` (40_text_codecs R123). -/
def aval (ch : Byte) : Option (BitVec 4) := symbolValue alphaA ch

/-- `HVAL(ch)` (40_text_codecs R124). -/
def hval (ch : Byte) : Option (BitVec 4) := symbolValue hexD ch

/-- The high nibble `b[7:4]` (00_scope R10). -/
def highNibble (b : Byte) : BitVec 4 := b.extractLsb' 4 4

/-- The low nibble `b[3:0]` (00_scope R10). -/
def lowNibbleOf (b : Byte) : BitVec 4 := b.extractLsb' 0 4

/-- Encoding with a symbol table: two symbols a byte, high nibble first (20_memory R63). -/
def encodeText (sym : BitVec 4 → Byte) (b : List Byte) : List Byte :=
  b.flatMap fun x => [sym (highNibble x), sym (lowNibbleOf x)]

/-- Decoding with a symbol lookup: a byte is `16 * h + l`; odd length or a character outside the
alphabet gives nothing (40_text_codecs R122). -/
def decodeText (val : Byte → Option (BitVec 4)) : List Byte → Option (List Byte)
  | [] => some []
  | [_] => none
  | x :: y :: t =>
    match val x, val y, decodeText val t with
    | some h, some l, some b => some ((h ++ l) :: b)
    | _, _, _ => none

/-- The outcome of a decoder as a command sees it: `InvalidEncoding` on failure (60_exceptions R261). -/
def orInvalidEncoding (r : Option (List Byte)) : Except CmdError (List Byte) :=
  match r with
  | some b => .ok b
  | none => .error .invalidEncoding

/-- `MhxEnc(b)` (40_text_codecs R121). -/
def mhxEnc (b : List Byte) : List Byte := encodeText alphaA b

/-- `MhxDec(t)` (40_text_codecs R122). -/
def mhxDec (t : List Byte) : Except CmdError (List Byte) := orInvalidEncoding (decodeText aval t)

/-- `HexEnc(b)` (40_text_codecs R125). -/
def hexEnc (b : List Byte) : List Byte := encodeText hexD b

/-- `HexDec(t)` (40_text_codecs R126). -/
def hexDec (t : List Byte) : Except CmdError (List Byte) := orInvalidEncoding (decodeText hval t)

/-- `MHX_ENC` (40_text_codecs R128). -/
def execMhxEnc (s : State) : Host.Outcome State Fault Refusal :=
  .next ((s.begin 0x10).withDin fun b s => (s.putResult (mhxEnc b)).complete)

/-- `MHX_DEC` (40_text_codecs R129). -/
def execMhxDec (s : State) : Host.Outcome State Fault Refusal :=
  .next ((s.begin 0x10).withDin fun t s => s.finishWith (mhxDec t) State.putResult)

/-- `HEX_ENC` (40_text_codecs R130). -/
def execHexEnc (s : State) : Host.Outcome State Fault Refusal :=
  .next ((s.begin 0x10).withDin fun b s => (s.putResult (hexEnc b)).complete)

/-- `HEX_DEC` (40_text_codecs R131). -/
def execHexDec (s : State) : Host.Outcome State Fault Refusal :=
  .next ((s.begin 0x10).withDin fun t s => s.finishWith (hexDec t) State.putResult)

end Sys2Proof.Machine
end

