-- ==== Sys2Proof/Machine/BlockCodec.lean ====
section
/-! DEFINITION. The OTP block codec (43_block_codec). -/

namespace Sys2Proof.Machine

/-- `Serialize`, format `BLK16` offset by offset (43_block_codec R171, 30_encoding R94). -/
def serialize (f : Block) : Bytes 16 :=
  #v[f.uid[0], f.uid[1], f.uid[2], f.uid[3], f.uid[4], f.uid[5],
     byteOf f.ctr 0, byteOf f.ctr 1,
     byteOf f.tstp 0, byteOf f.tstp 1, byteOf f.tstp 2,
     f.sess,
     byteOf f.rnd 0, byteOf f.rnd 1,
     byteOf f.crc 0, byteOf f.crc 1]

/-- `Stamp`, the complement of the checksum of bytes 0 to 13 (43_block_codec R172). -/
def stamp (f : Block) : BitVec 16 := ~~~ crc16 ((serialize f).toList.take 14)

/-- The block with its Checksum field stamped (`stampChecksum`, 43_block_codec R172). -/
def Block.stamped (f : Block) : Block := { f with crc := stamp f }

/-- `Emit(key, …)`: stamp, serialize, encrypt, encode; the stamped checksum and the 32 characters, or
`InvalidLength` for a key not of 16 bytes (43_block_codec R174). -/
def emitBlock (key : List Byte) (f : Block) : Except CmdError (BitVec 16 × List Byte) :=
  match cipherEnc key (serialize f.stamped).toList with
  | .ok ct => .ok (stamp f, mhxEnc ct.toList)
  | .error e => .error e

/-- `Parse(img)`, the inverse of `Serialize`; no command performs it (43_block_codec R180). -/
def parseBlock (img : Bytes 16) : Block :=
  { uid := #v[img[0], img[1], img[2], img[3], img[4], img[5]]
    ctr := img[7] ++ img[6]
    tstp := img[10] ++ img[9] ++ img[8]
    sess := img[11]
    rnd := img[13] ++ img[12]
    crc := img[15] ++ img[14] }

/-- `BLK_STAMP` (43_block_codec R177). -/
def execBlkStamp (s : State) : Host.Outcome State Fault Refusal :=
  let s := s.begin 0x10
  .next { s with block := s.block.stamped }.complete

/-- `BLK_SER` (43_block_codec R178). -/
def execBlkSer (s : State) : Host.Outcome State Fault Refusal :=
  let s := s.begin 0x10
  .next (s.putResult (serialize s.block).toList).complete

/-- `BLK_EMIT` (43_block_codec R179). -/
def execBlkEmit (s : State) : Host.Outcome State Fault Refusal :=
  .next ((s.begin 0x10).withKin fun key s =>
    s.finishWith (emitBlock key s.block) fun r s =>
      { s with block := { s.block with crc := r.1 } }.putResult r.2)

end Sys2Proof.Machine
end

