-- ==== Sys2Proof/Machine/Bus.lean ====
section
/-! DEFINITION. The host's side: the register map (20_memory R73), reads, writes, and the reset event.
The one host write that starts a command, to `CMD`, is in Machine/Sequencer.lean. -/

namespace Sys2Proof.Machine

/-- The scalar registers of the map (20_memory R73). -/
inductive Scalar where
  | cmd | status | err | seq | dinLen | doutLen | kinLen | ovrMask | initCtr | crcReg | counter
  | session | ponRand | created | lastUse | fCtr | fTstp | fSess | fRnd | fCrc
  deriving DecidableEq, Repr

/-- The byte registers and buffers of the map (20_memory R73). -/
inductive ByteReg where
  | pubId | privId | key | ovrPubId | ovrPrivId | ovrKey | fUid | blkImg | kin | din | dout
  deriving DecidableEq, Repr

/-- The rows of the map that are scalars. -/
def Scalar.all : List Scalar :=
  [.cmd, .status, .err, .seq, .dinLen, .doutLen, .kinLen, .ovrMask, .initCtr, .crcReg, .counter,
   .session, .ponRand, .created, .lastUse, .fCtr, .fTstp, .fSess, .fRnd, .fCrc]

/-- The rows of the map that are byte registers or buffers. -/
def ByteReg.all : List ByteReg :=
  [.pubId, .privId, .key, .ovrPubId, .ovrPrivId, .ovrKey, .fUid, .blkImg, .kin, .din, .dout]

/-- The offset of a scalar from `BASE` (20_memory R73). -/
def Scalar.offset : Scalar → Nat
  | .cmd => 0x000
  | .status => 0x004
  | .err => 0x008
  | .seq => 0x00C
  | .dinLen => 0x010
  | .doutLen => 0x014
  | .kinLen => 0x018
  | .ovrMask => 0x01C
  | .initCtr => 0x020
  | .crcReg => 0x024
  | .counter => 0x028
  | .session => 0x02C
  | .ponRand => 0x030
  | .created => 0x038
  | .lastUse => 0x040
  | .fCtr => 0x098
  | .fTstp => 0x09C
  | .fSess => 0x0A0
  | .fRnd => 0x0A4
  | .fCrc => 0x0A8

/-- The container size of a scalar in bytes (20_memory R73). -/
def Scalar.size : Scalar → Nat
  | .cmd | .status | .err | .seq | .kinLen | .ovrMask | .session | .fSess => 1
  | .initCtr | .crcReg | .counter | .fCtr | .fRnd | .fCrc => 2
  | .dinLen | .doutLen | .ponRand | .fTstp => 4
  | .created | .lastUse => 8

/-- The offset of a byte register or buffer from `BASE` (20_memory R73). -/
def ByteReg.offset : ByteReg → Nat
  | .pubId => 0x048
  | .privId => 0x050
  | .key => 0x060
  | .ovrPubId => 0x070
  | .ovrPrivId => 0x078
  | .ovrKey => 0x080
  | .fUid => 0x090
  | .blkImg => 0x0B0
  | .kin => 0x0C0
  | .din => 0x1000
  | .dout => 0x1000 + Config.bufCap

/-- The number of bytes of a byte register or buffer (20_memory R73). -/
def ByteReg.size : ByteReg → Nat
  | .pubId | .privId | .ovrPubId | .ovrPrivId | .fUid => 6
  | .key | .ovrKey | .blkImg => 16
  | .kin => 32
  | .din => Config.bufCap
  | .dout => 2 * Config.bufCap

/-- The number of bytes of the register space (20_memory R60). -/
def spaceSize : Nat := 0x1000 + 3 * Config.bufCap

/-- What a legal access reaches. -/
inductive Place where
  /-- one whole scalar -/
  | scalar (r : Scalar)
  /-- byte `i` of a byte register or buffer -/
  | byte (a : ByteReg) (i : Nat)
  /-- offsets that no row of the map lists: read 0, writes dropped -/
  | unlisted
  deriving DecidableEq, Repr

/-- Does the range of `n` bytes at `off` meet the range of `m` bytes at `base`? -/
def rangesMeet (off n base m : Nat) : Bool := decide (off < base + m) && decide (base < off + n)

/-- Does an access of `n` bytes at `off` touch a listed offset? -/
def touchesListed (off n : Nat) : Bool :=
  Scalar.all.any (fun r => rangesMeet off n r.offset r.size) ||
  ByteReg.all.any (fun a => rangesMeet off n a.offset a.size)

/-- The byte register or buffer that lists the offset. -/
def arrayAt (off : Nat) : Option ByteReg :=
  ByteReg.all.find? fun a => decide (a.offset ≤ off) && decide (off - a.offset < a.size)

/-- What an access of `n` bytes at offset `off` reaches, or nothing when the spec gives the access no
meaning (20_memory R70, R73; log 9). -/
def locate (off n : Nat) : Option Place :=
  match Scalar.all.find? fun r => r.offset == off && r.size == n with
  | some r => some (.scalar r)
  | none =>
    match if n = 1 then arrayAt off else none with
    | some a => some (.byte a (off - a.offset))
    | none =>
      if sizeOk n && off % n == 0 && !touchesListed off n then some .unlisted else none

/-- A scalar as the host reads it, zero-extended; `CMD` reads 0 (10_state R29). -/
def State.readScalar (s : State) : Scalar → BitVec 64
  | .cmd => 0
  | .status => s.status.toByte.setWidth 64
  | .err => s.err.setWidth 64
  | .seq => s.seq.setWidth 64
  | .dinLen => s.dinLen.setWidth 64
  | .doutLen => s.doutLen.setWidth 64
  | .kinLen => s.kinLen.setWidth 64
  | .ovrMask => s.ovr.mask.setWidth 64
  | .initCtr => s.ovr.initCtr.setWidth 64
  | .crcReg => s.crcReg.setWidth 64
  | .counter => s.token.counter.setWidth 64
  | .session => s.token.session.setWidth 64
  | .ponRand => s.token.ponRand.setWidth 64
  | .created => s.token.created
  | .lastUse => s.token.lastUse
  | .fCtr => s.block.ctr.setWidth 64
  | .fTstp => s.block.tstp.setWidth 64
  | .fSess => s.block.sess.setWidth 64
  | .fRnd => s.block.rnd.setWidth 64
  | .fCrc => s.block.crc.setWidth 64

/-- Byte `i` of a byte register or buffer as the host reads it; `BLKIMG` is computed at the read
(10_state R25). -/
def State.readByte (s : State) (a : ByteReg) (i : Nat) : Byte :=
  match a with
  | .pubId => s.token.pubId.toList.getD i 0
  | .privId => s.token.privId.toList.getD i 0
  | .key => s.token.key.toList.getD i 0
  | .ovrPubId => s.ovr.pubId.toList.getD i 0
  | .ovrPrivId => s.ovr.privId.toList.getD i 0
  | .ovrKey => s.ovr.key.toList.getD i 0
  | .fUid => s.block.uid.toList.getD i 0
  | .blkImg => (serialize s.block).toList.getD i 0
  | .kin => s.kin.read i
  | .din => s.din.read i
  | .dout => s.dout.read i

/-- A host write to a scalar while no command is in flight: the low bits of the value; a read-only
register keeps its value, reserved bits are dropped (20_memory R73). A write to `CMD` stores
nothing (10_state R29). -/
def State.writeScalar (s : State) (r : Scalar) (v : BitVec 64) : State :=
  match r with
  | .dinLen => { s with dinLen := v.setWidth 32 }
  | .kinLen => { s with kinLen := v.setWidth 8 }
  | .ovrMask => { s with ovr := { s.ovr with mask := v.setWidth 3 } }
  | .initCtr => { s with ovr := { s.ovr with initCtr := v.setWidth 16 } }
  | .counter => { s with token := { s.token with counter := v.setWidth 16 } }
  | .session => { s with token := { s.token with session := v.setWidth 8 } }
  | .ponRand => { s with token := { s.token with ponRand := v.setWidth 32 } }
  | .created => { s with token := { s.token with created := v } }
  | .lastUse => { s with token := { s.token with lastUse := v } }
  | .fCtr => { s with block := { s.block with ctr := v.setWidth 16 } }
  | .fTstp => { s with block := { s.block with tstp := v.setWidth 24 } }
  | .fSess => { s with block := { s.block with sess := v.setWidth 8 } }
  | .fRnd => { s with block := { s.block with rnd := v.setWidth 16 } }
  | .fCrc => { s with block := { s.block with crc := v.setWidth 16 } }
  | .cmd => s
  | .status => s
  | .err => s
  | .seq => s
  | .doutLen => s
  | .crcReg => s

/-- A host write to byte `i` of a byte register or buffer while no command is in flight; the Secret
Material, `BLKIMG` and `DOUT` keep their values (20_memory R73, 10_state R21, R25). -/
def State.writeByte (s : State) (a : ByteReg) (i : Nat) (b : Byte) : State :=
  match a with
  | .ovrPubId => { s with ovr := { s.ovr with pubId := s.ovr.pubId.setIfInBounds i b } }
  | .ovrPrivId => { s with ovr := { s.ovr with privId := s.ovr.privId.setIfInBounds i b } }
  | .ovrKey => { s with ovr := { s.ovr with key := s.ovr.key.setIfInBounds i b } }
  | .fUid => { s with block := { s.block with uid := s.block.uid.setIfInBounds i b } }
  | .kin => { s with kin := s.kin.write i b }
  | .din => { s with din := s.din.write i b }
  | .pubId => s
  | .privId => s
  | .key => s
  | .blkImg => s
  | .dout => s

/-- The data a legal read answers (20_memory R72, R73). -/
def State.readPlace (s : State) : Place → BitVec 64
  | .scalar r => s.readScalar r
  | .byte a i => (s.readByte a i).setWidth 64
  | .unlisted => 0

/-- A legal write while no command is in flight, `CMD` apart (20_memory R73). -/
def State.writePlace (s : State) (p : Place) (v : BitVec 64) : State :=
  match p with
  | .scalar r => s.writeScalar r v
  | .byte a i => s.writeByte a i (v.setWidth 8)
  | .unlisted => s

/-- The place a bus access reaches: an address outside the register space faults, an access without a
meaning is refused (00_scope R14, 20_memory R60, R70; logs 9, 10, 11). -/
def busPlace (addr n : Nat) : Host.Outcome Place Fault Refusal :=
  if addr < Config.base ∨ spaceSize ≤ addr - Config.base then .fault .outsideRegisterSpace
  else
    match locate (addr - Config.base) n with
    | some p => .next p
    | none => .refused .undefinedAccess

/-- `MemRead(addr, n)`: the data goes to the host, nothing else changes (20_memory R72). While a
command is in flight the registers still hold their old values, so no gate is needed (R81). -/
def State.hostRead (addr n : Nat) (s : State) : Host.Outcome State Fault Refusal :=
  match busPlace addr n with
  | .next p => .next { s with busData := some (s.readPlace p) }
  | .fault f => .fault f
  | .refused r => .refused r

/-- The reset event: every register and buffer at its reset value, the command in flight abandoned;
the external agents and the host are not touched (70_reset_and_hazards R300, 10_state R36, log 13). -/
def State.resetEvent (s : State) : State :=
  { State.reset with agents := s.agents, inputs := s.inputs, busData := s.busData }

end Sys2Proof.Machine
end

