-- ==== Sys2Proof/Machine/Record.lean ====
section
/-! DEFINITION. The persisted record (45_record): `REC_LOAD`, `REC_SAVE`. -/

namespace Sys2Proof.Machine

/-! ## Decimal text -/

/-- The decimal digit of a value below 10. -/
def decDigit (d : Nat) : Byte := BitVec.ofNat 8 (0x30 + d)

/-- The digits of `v`, at most `fuel` of them, before the digits `acc`. -/
def decDigits : Nat → Nat → List Byte → List Byte
  | 0, _, acc => acc
  | fuel + 1, v, acc =>
    if v < 10 then decDigit v :: acc else decDigits fuel (v / 10) (decDigit (v % 10) :: acc)

/-- `Dec(v)`, the decimal text of a natural number, no leading zero (45_record R232). -/
def decText (v : Nat) : List Byte := decDigits (v + 1) v []

/-- Is the byte a decimal digit, `'0'` to `'9'`? -/
def isDigit (b : Byte) : Bool := 0x30 ≤ b && b ≤ 0x39

/-- The natural number whose decimal digits are `t`, leading zeros allowed. -/
def decValue (t : List Byte) : Nat := t.foldl (fun v b => 10 * v + (b.toNat - 0x30)) 0

/-- `ParseDec(t, N)` (45_record R233). -/
def parseDec (n : Nat) (t : List Byte) : Except CmdError (BitVec n) :=
  if t = [] then .error .badRecord
  else if !t.all isDigit then .error .badRecord
  else if 2 ^ n ≤ decValue t then .error .badRecord
  else .ok (BitVec.ofNat n (decValue t))

/-! ## Keys and lines -/

/-- The eight keys (45_record R231). -/
inductive RecordKey where
  | publicId
  | privateId
  | aesKey
  | counter
  | session
  | created
  | lastuse
  | ponrand
  deriving DecidableEq, Repr

/-- The eight keys in the document's order. -/
def RecordKey.all : List RecordKey :=
  [.publicId, .privateId, .aesKey, .counter, .session, .created, .lastuse, .ponrand]

/-- The name of a key (45_record R231). -/
def RecordKey.name : RecordKey → List Byte
  | .publicId => asciiText ['p', 'u', 'b', 'l', 'i', 'c', '_', 'i', 'd']
  | .privateId => asciiText ['p', 'r', 'i', 'v', 'a', 't', 'e', '_', 'i', 'd']
  | .aesKey => asciiText ['a', 'e', 's', '_', 'k', 'e', 'y']
  | .counter => asciiText ['c', 'o', 'u', 'n', 't', 'e', 'r']
  | .session => asciiText ['s', 'e', 's', 's', 'i', 'o', 'n']
  | .created => asciiText ['c', 'r', 'e', 'a', 't', 'e', 'd']
  | .lastuse => asciiText ['l', 'a', 's', 't', 'u', 's', 'e']
  | .ponrand => asciiText ['p', 'o', 'n', 'r', 'a', 'n', 'd']

/-- The key of a name, compared byte for byte (45_record R235 clause 3). -/
def keyOfName (name : List Byte) : Option RecordKey :=
  RecordKey.all.find? fun k => k.name == name

/-- The newline byte (45_record R230). -/
def newline : Byte := 0x0A

/-- The colon byte. -/
def colon : Byte := 0x3A

/-- The text cut at every newline; the piece after the last newline is a line too (45_record R235). -/
def splitLines : List Byte → List (List Byte)
  | [] => [[]]
  | b :: t =>
    if b = newline then [] :: splitLines t
    else match splitLines t with
      | l :: ls => (b :: l) :: ls
      | [] => [[b]]

/-- Space, tab or carriage return (45_record R235 clause 2). -/
def isBlank (b : Byte) : Bool := b == 0x20 || b == 0x09 || b == 0x0D

/-- The text without leading and trailing blanks (45_record R235 clause 2). -/
def trimBlanks (t : List Byte) : List Byte :=
  ((t.dropWhile isBlank).reverse.dropWhile isBlank).reverse

/-- The key part and the value part of a line, cut at its first colon; nothing for a line without one
(45_record R235 clauses 1 and 2). -/
def splitColon (line : List Byte) : Option (List Byte × List Byte) :=
  if line.contains colon then
    some (trimBlanks (line.takeWhile (· != colon)),
          trimBlanks ((line.dropWhile (· != colon)).drop 1))
  else none

/-! ## Loading -/

/-- A decoded byte value of the right size, or `InvalidLength` (45_record R237). -/
def sizedBytes (n : Nat) (r : Except CmdError (List Byte)) : Except CmdError (Bytes n) :=
  match r with
  | .error e => .error e
  | .ok b =>
    match toBytes n b with
    | some v => .ok v
    | none => .error .invalidLength

/-- The token values with the value of one key replaced (45_record R235 clause 4, R237). -/
def loadValue (k : RecordKey) (val : List Byte) (t : Token) : Except CmdError Token :=
  match k with
  | .publicId => (sizedBytes 6 (mhxDec val)).map fun v => { t with pubId := v }
  | .privateId => (sizedBytes 6 (hexDec val)).map fun v => { t with privId := v }
  | .aesKey => (sizedBytes 16 (hexDec val)).map fun v => { t with key := v }
  | .counter => (parseDec 16 val).map fun v => { t with counter := v }
  | .session => (parseDec 8 val).map fun v => { t with session := v }
  | .created => (parseDec 64 val).map fun v => { t with created := v }
  | .lastuse => (parseDec 64 val).map fun v => { t with lastUse := v }
  | .ponrand => (parseDec 32 val).map fun v => { t with ponRand := v }

/-- One line of a record (45_record R235). -/
def loadLine (line : List Byte) (t : Token) : Except CmdError Token :=
  match splitColon line with
  | none => .ok t
  | some (name, val) =>
    match keyOfName name with
    | none => .ok t
    | some k => loadValue k val t

/-- The lines of a record in order; the first failing line decides (45_record R238). -/
def loadLines : List (List Byte) → Token → Except CmdError Token
  | [], t => .ok t
  | line :: ls, t =>
    match loadLine line t with
    | .ok t' => loadLines ls t'
    | .error e => .error e

/-- The parse of a record text, from all-zero values (45_record R236). -/
def parseRecord (text : List Byte) : Except CmdError Token := loadLines (splitLines text) Token.zero

/-- `REC_LOAD` (45_record R238): the parse, one time reading, the clock check, the commit. -/
def execRecLoad (s : State) : Host.Outcome State Fault Refusal :=
  .next ((s.begin 0x10).withDin fun text s =>
    match parseRecord text with
    | .error e => s.raise e
    | .ok t => s.withNow fun now s =>
      if now < t.lastUse then s.raise .clockRollback
      else { s with token := t, status := s.status.tokenLoaded }.complete)

/-! ## Saving -/

/-- The value text of a key (45_record R234). -/
def Token.valueText (t : Token) : RecordKey → List Byte
  | .publicId => mhxEnc t.pubId.toList
  | .privateId => hexEnc t.privId.toList
  | .aesKey => hexEnc t.key.toList
  | .counter => decText t.counter.toNat
  | .session => decText t.session.toNat
  | .created => decText t.created.toNat
  | .lastuse => decText t.lastUse.toNat
  | .ponrand => decText t.ponRand.toNat

/-- One line of the record, ended by a newline (45_record R234). -/
def Token.recordLine (t : Token) (k : RecordKey) : List Byte :=
  k.name ++ [colon, 0x20] ++ t.valueText k ++ [newline]

/-- `Render`, the eight lines in the order of the keys (45_record R234). -/
def Token.render (t : Token) : List Byte := RecordKey.all.flatMap t.recordLine

/-- `REC_SAVE` (45_record R242). -/
def execRecSave (s : State) : Host.Outcome State Fault Refusal :=
  .next ((s.begin 0x10).withToken fun s =>
    { s with status := s.status.saved }.putResult s.token.render |>.complete)

end Sys2Proof.Machine
end

