-- ==== Sys2Proof/Machine/TokenMachine.lean ====
section
/-! DEFINITION. The token state machine (44_state_machine): `CREATE`, `CREATE_OVR`, `EMIT_OTP`,
`REG_EXPORT`. -/

namespace Sys2Proof.Machine

/-! ## Create -/

/-- A generated Public ID: the prefix `0x22, 0x22` and four random bytes (30_encoding R99, R8). -/
def prefixed (r : Bytes 4) : Bytes 6 := #v[0x22, 0x22, r[0], r[1], r[2], r[3]]

/-- The Public ID of a new token: the supplied one as it is, or prefix and `DrawBytes(4)`
(44_state_machine R195). -/
def State.withPubId (supplied : Option (Bytes 6)) (s : State) (k : Bytes 6 → State → State) :
    State :=
  match supplied with
  | some b => k b s
  | none => s.withBytes 4 none fun r s => k (prefixed r) s

/-- The body of Create and Create-with-overrides: the draws for the fields not supplied, one time
reading, the PonRand draw, then one commit (44_state_machine R191, R195). -/
def State.createToken (pub priv : Option (Bytes 6)) (key : Option (Bytes 16)) (counter : BitVec 16)
    (s : State) : State :=
  s.withPubId pub fun pubId s =>
  s.withBytes 6 priv fun privId s =>
  s.withBytes 16 key fun key s =>
  s.withNow fun t s =>
  s.withDraw 32 fun pr s =>
    { s with
      token := { pubId := pubId, privId := privId, key := key, counter := counter, session := 1,
                 created := t, lastUse := t, ponRand := clearNibble pr }
      status := s.status.tokenLoaded }.complete

/-- `CREATE` (44_state_machine R191). -/
def execCreate (s : State) : Host.Outcome State Fault Refusal :=
  .next ((s.begin 0x10).createToken none none none 1)

/-- `CREATE_OVR` (44_state_machine R195). -/
def execCreateOvr (s : State) : Host.Outcome State Fault Refusal :=
  let s := s.begin 0x10
  .next (if s.ovr.initCtr = 0xFFFF then s.raise .badOperand
    else s.createToken s.ovr.suppliedPubId s.ovr.suppliedPrivId s.ovr.suppliedKey
      (s.ovr.initCtr + 1))

/-! ## Emit OTP -/

/-- The sequencer goes to a stage of `EMIT_OTP` (`seq <- k`, 00_scope R17). -/
def State.toStage (st : EmitStage) (l : EmitLocals) (s : State) : State :=
  { s with seq := st.seq, flight := .emit st l }

/-- The local copies a new emission starts from (44_state_machine R200). -/
def Token.locals (t : Token) : EmitLocals :=
  { ctr := t.counter, sess := t.session, lastUse := t.lastUse, ponRand := t.ponRand,
    now := 0, tstp := 0, rnd := 0, crc := 0, text := [] }

/-- The start of `EMIT_OTP`: `NoToken`, or the local copies and step 1 (44_state_machine R200). -/
def State.emitStart (s : State) : State :=
  (s.begin 0x01).withToken fun s => s.toStage .advance s.token.locals

/-- Step 1, advance session and counter (44_state_machine R201). -/
def State.emitAdvance (l : EmitLocals) (s : State) : State :=
  if l.sess = 0xFF then
    if 0x7FFF ≤ l.ctr then s.raise .counterExhausted
    else s.withDraw 32 fun pr s =>
      s.toStage .clock { l with ctr := l.ctr + 1, ponRand := clearNibble pr, sess := 1 }
  else s.toStage .clock { l with sess := l.sess + 1 }

/-- Step 2, read the current time (44_state_machine R205). -/
def State.emitClock (l : EmitLocals) (s : State) : State :=
  s.withNow fun t s => s.toStage .collide { l with now := t }

/-- Step 3, anti-collision, the three cases of 44_state_machine R206. -/
def State.emitCollide (l : EmitLocals) (s : State) : State :=
  if l.now = l.lastUse then
    if 6 < lowNibble l.ponRand then { s with status := s.status.waiting }.toStage .hold l
    else s.toStage .stamp { l with ponRand := l.ponRand + 1 }
  else s.toStage .stamp { l with lastUse := l.now, ponRand := clearNibble l.ponRand }

/-- The wait of case C asks the time source once: a reading above `now` ends it, any other leaves the
command held (44_state_machine R208, 60_exceptions R286, log 14). -/
def State.emitHold (l : EmitLocals) (s : State) : State :=
  s.withNow fun t s =>
    if l.now < t then { s with status := s.status.waitOver }.toStage .collideEnd { l with now := t }
    else s

/-- The end of step 3 after the wait: the low nibble cleared, `LASTUSE` not brought up
(44_state_machine R209). -/
def State.emitCollideEnd (l : EmitLocals) (s : State) : State :=
  s.toStage .stamp { l with ponRand := clearNibble l.ponRand }

/-- The Timestamp `((now - CREATED) * 8 + pr) mod 0xFFFFFF`, computed on natural numbers
(44_state_machine R210). -/
def timestamp (now created : Time) (pr : BitVec 32) : BitVec 24 :=
  BitVec.ofNat 24 (((now.toNat - created.toNat) * 8 + pr.toNat) % 0xFFFFFF)

/-- Step 4, timestamp; `ClockRollback` when the reading is before `CREATED` (44_state_machine R210). -/
def State.emitStamp (l : EmitLocals) (s : State) : State :=
  if l.now < s.token.created then s.raise .clockRollback
  else s.toStage .random { l with tstp := timestamp l.now s.token.created l.ponRand }

/-- Step 5, random (44_state_machine R211). -/
def State.emitRandom (l : EmitLocals) (s : State) : State :=
  s.withDraw 16 fun r s => s.toStage .build { l with rnd := r }

/-- The ephemeral block of an emission (44_state_machine R211, 10_state R24). -/
def Token.emissionBlock (t : Token) (l : EmitLocals) : Block :=
  { uid := t.privId, ctr := l.ctr, tstp := l.tstp, sess := l.sess, rnd := l.rnd, crc := 0 }

/-- Step 6, build the block and emit (44_state_machine R211). -/
def State.emitBuild (l : EmitLocals) (s : State) : State :=
  match emitBlock s.token.key.toList (s.token.emissionBlock l) with
  | .ok r => s.toStage .finish { l with crc := r.1, text := r.2 }
  | .error e => s.raise e

/-- Step 7, prepend the Public ID and commit (44_state_machine R200, R212). -/
def State.emitFinish (l : EmitLocals) (s : State) : State :=
  ({ s with
      token := { s.token with counter := l.ctr, session := l.sess, lastUse := l.lastUse,
                              ponRand := l.ponRand }
      status := s.status.emitted }.putResult (mhxEnc s.token.pubId.toList ++ l.text)).complete

/-- One move of the sequencer inside `EMIT_OTP`; a command held in its wait does not move
(44_state_machine R213). -/
def State.emitMove (s : State) : State :=
  match s.flight with
  | .emit .advance l => s.emitAdvance l
  | .emit .clock l => s.emitClock l
  | .emit .collide l => s.emitCollide l
  | .emit .hold _ => s
  | .emit .collideEnd l => s.emitCollideEnd l
  | .emit .stamp l => s.emitStamp l
  | .emit .random l => s.emitRandom l
  | .emit .build l => s.emitBuild l
  | .emit .finish l => s.emitFinish l
  | .idle => s
  | .latched _ => s

/-- `n` moves. -/
def State.emitMoves : Nat → State → State
  | 0, s => s
  | n + 1, s => State.emitMoves n s.emitMove

/-- `EMIT_OTP` from where it stands to its completion, its error, or its wait: at most seven moves. -/
def State.emitRun (s : State) : State := s.emitMoves 7

/-- A held `EMIT_OTP` asks the time source once and, if the wait is over, runs on. -/
def State.emitResume (l : EmitLocals) (s : State) : State := (s.emitHold l).emitRun

/-- `EMIT_OTP` (44_state_machine R200): to completion, or into the wait of step 3. -/
def execEmitOtp (s : State) : Host.Outcome State Fault Refusal := .next s.emitStart.emitRun

/-! ## Registration export -/

/-- `", "`, the separator of format `REG60` (30_encoding R96). -/
def commaSpace : List Byte := asciiText [',', ' ']

/-- The registration text (44_state_machine R220). -/
def Token.registration (t : Token) : List Byte :=
  mhxEnc t.pubId.toList ++ commaSpace ++ hexEnc t.privId.toList ++ commaSpace
    ++ hexEnc t.key.toList

/-- `REG_EXPORT` (44_state_machine R220). -/
def execRegExport (s : State) : Host.Outcome State Fault Refusal :=
  .next ((s.begin 0x10).withToken fun s => (s.putResult s.token.registration).complete)

end Sys2Proof.Machine
end

