-- ==== Sys2Proof/Machine/Dispatch.lean ====
section
/-! DEFINITION. One arm per command (30_encoding R92). -/

namespace Sys2Proof.Machine

-- The meaning of each command, from the state at its start to the state at its completion, its error or its wait.
def exec (i : Instr) (s : State) : Host.Outcome State Fault Refusal :=
  match i with
  | .mhxEnc => Sys2Proof.Machine.execMhxEnc s
  | .mhxDec => Sys2Proof.Machine.execMhxDec s
  | .hexEnc => Sys2Proof.Machine.execHexEnc s
  | .hexDec => Sys2Proof.Machine.execHexDec s
  | .crc16 => Sys2Proof.Machine.execCrc16 s
  | .aesEnc => Sys2Proof.Machine.execAesEnc s
  | .aesDec => Sys2Proof.Machine.execAesDec s
  | .blkStamp => Sys2Proof.Machine.execBlkStamp s
  | .blkSer => Sys2Proof.Machine.execBlkSer s
  | .blkEmit => Sys2Proof.Machine.execBlkEmit s
  | .create => Sys2Proof.Machine.execCreate s
  | .createOvr => Sys2Proof.Machine.execCreateOvr s
  | .emitOtp => Sys2Proof.Machine.execEmitOtp s
  | .regExport => Sys2Proof.Machine.execRegExport s
  | .recLoad => Sys2Proof.Machine.execRecLoad s
  | .recSave => Sys2Proof.Machine.execRecSave s

end Sys2Proof.Machine
end

