-- ==== Sys2Proof/Machine/Sequencer.lean ====
section
/-! DEFINITION. How the block moves: taking a code at the `CMD` write, running the command taken, the
wait, the busy gate, and one action of the outside (20_memory R77 to R82). -/

namespace Sys2Proof.Machine

/-- An illegal code: the command "starts and at once completes", failing with `IllegalCommand`
(30_encoding R93). -/
def State.illegalCommand (s : State) : State := (s.begin 0).raise .illegalCommand

/-- A `CMD` write of value `v` while no command is in flight: a legal code is taken and its command
starts; any other fails at once (30_encoding R93, 20_memory R85). -/
def State.accept (v : Byte) (s : State) : State :=
  match decodeByte v with
  | .ok i => { s.begin (startSeq i) with flight := .latched v }
  | .error _ => s.illegalCommand

/-- The command whose code was taken runs. -/
def State.runLatched (v : Byte) (s : State) : Host.Outcome State Fault Refusal :=
  match decode [v] with
  | .ok (i, _) => exec i s
  | .error _ => .next s.illegalCommand

/-- The block moves on its own as far as it can: a command taken runs to its completion or its wait;
a held `EMIT_OTP` asks the time source once; an idle block does nothing (20_memory R78, R82). -/
def State.advance (s : State) : Host.Outcome State Fault Refusal :=
  match s.flight with
  | .idle => .next s
  | .latched v => s.runLatched v
  | .emit .hold l => .next (s.emitResume l)
  | .emit _ _ => .next s.emitRun

/-- The sequencer makes one move: as `advance`, but an `EMIT_OTP` takes one step of 44_state_machine
R200 at a time (10_state R33, log 5). -/
def State.tick (s : State) : Host.Outcome State Fault Refusal :=
  match s.flight with
  | .idle => .next s
  | .latched v =>
    match decodeByte v with
    | .ok .emitOtp => .next s.emitStart
    | _ => s.runLatched v
  | .emit .hold l => .next (s.emitHold l)
  | .emit _ _ => .next s.emitMove

/-- `MemWrite(addr, n, v)`: dropped while a command is in flight (20_memory R81); else stored by name,
and a write to `CMD` starts a command (10_state R29). -/
def State.hostWrite (addr n : Nat) (v : BitVec 64) (s : State) :
    Host.Outcome State Fault Refusal :=
  match busPlace addr n with
  | .next p =>
    if s.status.busy then .next s
    else if p = .scalar .cmd then .next (s.accept (v.setWidth 8))
    else .next (s.writePlace p v)
  | .fault f => .fault f
  | .refused r => .refused r

/-- One action of the outside. -/
def State.act (a : HostAct) (s : State) : Host.Outcome State Fault Refusal :=
  match a with
  | .write addr n v => s.hostWrite addr n v
  | .read addr n => s.hostRead addr n
  | .reset => .next s.resetEvent
  | .run => s.advance
  | .tick => s.tick

/-- The next thing that happens: the oldest action of the outside, in the order the host issued them
(20_memory R77), or, with none left, a move of the block. -/
def State.stepOnce (s : State) : Host.Outcome State Fault Refusal :=
  match s.inputs with
  | [] => s.advance
  | a :: rest => { s with inputs := rest }.act a

/-- The state in which a command word is the next thing the block runs (log 4). -/
def State.latchWord (nbits w : Nat) (s : State) : State :=
  { s with flight := .latched (commandByte nbits w), inputs := .run :: s.inputs }

end Sys2Proof.Machine
end

