-- ==== Sys2Proof/Machine/Step.lean ====
section
/-! DEFINITION. One step of the machine, and where it takes its next command from. -/

namespace Sys2Proof.Machine

/-- One step: the oldest pending action of the outside, or a move of the block. -/
def step (s : State) : Host.Outcome State Fault Refusal := s.stepOnce

/-- `s` with the command word `w` as the one taken by an accepted `CMD` write, and the block's move as
the very next thing that happens. -/
def State.withFetchWord (s : State) (nbits w : Nat) : State := s.latchWord nbits w

end Sys2Proof.Machine
end

