-- ==== Sys2Proof/Safety.lean ====
section
/-! DEFINITION. What a claim may call a good state: the invariant every step keeps, the spec's own
predicate `WF` (10_state R31), and the words the statements use. -/

namespace Sys2Proof.Machine

/-- The codes `ERR` can hold: those of 60_exceptions R260 without `0x06`, which the block never raises
(R266), and `0x00`. -/
def errCodes : List (BitVec 8) :=
  [0x00, 0x01, 0x02, 0x03, 0x04, 0x05, 0x80, 0x81, 0x82, 0x83]

/-- The value `SEQ` has with a given command in flight (10_state R33). -/
def Flight.seq : Flight → BitVec 8
  | .idle => 0x00
  | .latched v => if v = 0x52 then 0x01 else 0x10
  | .emit st _ => st.seq

/-- What holds of the command in flight: a code taken is one of the sixteen (30_encoding R93), and the
text that step 7 commits has 32 characters (43_block_codec R174). -/
def Flight.sound : Flight → Prop
  | .idle => True
  | .latched v => v ∈ Instr.all.map Instr.code
  | .emit .finish l => l.text.length = 32
  | .emit _ _ => True

/-- Is an `EMIT_OTP` in flight past its token check? -/
def Flight.emitting : Flight → Bool
  | .emit _ _ => true
  | _ => false

/-- Is an `EMIT_OTP` held in its wait? -/
def Flight.held : Flight → Bool
  | .emit .hold _ => true
  | _ => false

/-- The Counter and Session of the next emission (44_state_machine R201). -/
def Token.nextPair (t : Token) (c : BitVec 16) (ses : BitVec 8) : Prop :=
  (t.session ≠ 0xFF ∧ c = t.counter ∧ ses = t.session + 1) ∨
  (t.session = 0xFF ∧ t.counter < 0x7FFF ∧ c = t.counter + 1 ∧ ses = 1)

/-- The PonRand a successful emission leaves, from the one after step 1: step 3 cases A and B
(44_state_machine R206). -/
def Token.nextRand (t : Token) (pr : BitVec 32) : Prop :=
  ∃ pr₁, (t.session ≠ 0xFF → pr₁ = t.ponRand) ∧
    (pr = clearNibble pr₁ ∨ lowNibble pr₁ ≤ 6 ∧ pr = pr₁ + 1)

/-- How the local values of an `EMIT_OTP` in flight follow from the token registers, stage by stage: the
copies of the start, Counter and Session after step 1, `LASTUSE` untouched up to the three cases of
step 3 and through the wait (44_state_machine R200, R201, R206, R209). -/
def EmitLocals.follows (t : Token) (l : EmitLocals) : EmitStage → Prop
  | .advance => l.ctr = t.counter ∧ l.sess = t.session ∧ l.lastUse = t.lastUse ∧ l.ponRand = t.ponRand
  | .clock | .collide | .collideEnd =>
    t.nextPair l.ctr l.sess ∧ l.lastUse = t.lastUse ∧ (t.session ≠ 0xFF → l.ponRand = t.ponRand)
  | .hold =>
    t.nextPair l.ctr l.sess ∧ l.lastUse = t.lastUse ∧ (t.session ≠ 0xFF → l.ponRand = t.ponRand) ∧
      l.now = t.lastUse ∧ 6 < lowNibble l.ponRand
  | .stamp | .random | .build | .finish =>
    t.nextPair l.ctr l.sess ∧ (l.lastUse = t.lastUse ∨ l.lastUse = l.now) ∧ t.nextRand l.ponRand

/-- What is in flight follows from the token registers. -/
def Flight.follows (t : Token) : Flight → Prop
  | .emit st l => l.follows t st
  | .idle | .latched _ => True

/-- The invariant of the machine. -/
structure State.Inv (s : State) : Prop where
  /-- the three buffers are in canonical form -/
  dinWf : s.din.wf
  kinWf : s.kin.wf
  doutWf : s.dout.wf
  /-- no buffer holds a byte at or above its capacity (10_state R27) -/
  dinWithin : s.din.within Config.bufCap
  kinWithin : s.kin.within 32
  doutWithin : s.dout.within (2 * Config.bufCap)
  /-- the result lies in the buffer (10_state R27) -/
  doutLen : s.doutLen.toNat ≤ 2 * Config.bufCap
  /-- `BUSY` is 1 exactly while a command is in flight (10_state R30) -/
  busy : s.status.busy = true ↔ s.flight ≠ .idle
  /-- `WAIT` is 1 exactly while `EMIT_OTP` is held in its wait (10_state R30) -/
  wait : s.status.wait = s.flight.held
  /-- `SEQ` tells the command in flight (10_state R33) -/
  seq : s.seq = s.flight.seq
  /-- while a command is in flight no completion is indicated (10_state R30, R32) -/
  notDone : s.status.busy = true → s.status.done = false ∧ s.status.errf = false ∧ s.err = 0
  /-- `ERRF` says that `ERR` holds an error (10_state R30, R32) -/
  errf : s.status.errf = true ↔ s.err ≠ 0
  /-- no other code is ever produced (60_exceptions R260, R266) -/
  errCode : s.err ∈ errCodes
  /-- `MUSTP` needs a token (10_state R30) -/
  mustp : s.status.mustp = true → s.status.token = true
  /-- an emission in flight has a token (60_exceptions R269) -/
  emitting : s.flight.emitting = true → s.status.token = true
  /-- the command in flight is sound -/
  sound : s.flight.sound
  /-- its local values follow from the token registers (10_state R34) -/
  follows : s.flight.follows s.token

/-- `WF`, the document's invariants of the token state (10_state R31). -/
structure State.WF (s : State) : Prop where
  counter : s.token.counter ≤ 0x7FFF
  session : s.token.session ≠ 0
  created : s.token.created ≤ s.token.lastUse
  token : s.status.token = true

/-! ## Duties of the time source (60_exceptions R286), premises of claims and checked by nothing -/

/-- Duty 1, *Advancing*, the fairness assumption on the time agent: for every `t` a reading above `t`
eventually comes, so that `WaitNextSecond(t)` answers. No 64-bit reading is above the greatest one, so
the duty speaks of every other `t` (log 14). -/
def Agents.advancing (a : Agents) : Prop :=
  ∀ t : Time, t ≠ BitVec.allOnes 64 → ∃ k, t < a.reading k

/-- Duty 2, *Not running backwards*, over the next `n` readings: a later one is never less than an
earlier one. -/
def Agents.inOrder (a : Agents) (n : Nat) : Prop :=
  ∀ j k, j ≤ k → k < n → a.reading j ≤ a.reading k

/-- The next `n` readings are in order and none is before `LASTUSE`: the premise of "LastUse only moves
forward" (44_state_machine R215). -/
def State.clockInOrder (s : State) (n : Nat) : Prop :=
  s.agents.inOrder n ∧ ∀ k < n, s.token.lastUse ≤ s.agents.reading k

/-- The errors a command can end with (60_exceptions R272). -/
def errorsOf : Instr → List CmdError
  | .mhxEnc => [.badOperand]
  | .mhxDec => [.badOperand, .invalidEncoding]
  | .hexEnc => [.badOperand]
  | .hexDec => [.badOperand, .invalidEncoding]
  | .crc16 => [.badOperand]
  | .aesEnc => [.badOperand, .invalidLength]
  | .aesDec => [.badOperand, .invalidLength]
  | .blkStamp => []
  | .blkSer => []
  | .blkEmit => [.badOperand, .invalidLength]
  | .create => [.randomSourceFailure]
  | .createOvr => [.badOperand, .randomSourceFailure]
  | .emitOtp => [.noToken, .counterExhausted, .randomSourceFailure, .clockRollback]
  | .regExport => [.noToken]
  | .recLoad => [.badOperand, .invalidEncoding, .invalidLength, .badRecord, .clockRollback]
  | .recSave => [.noToken]

/-- The control registers of a command that succeeded: `BUSY` 0, `DONE` 1, `ERRF` 0, the flags else as
`f` says, `ERR` and `SEQ` 0, nothing in flight (10_state R30, R32, R33). -/
def State.endedOk (s : State) (f : Status → Status) : State :=
  { s with
    status := f { s.status with busy := false, done := true, errf := false }
    err := 0, seq := 0, flight := .idle }

/-- The state after a command that ended with error `e`: every register and buffer as before, `STATUS`,
`ERR` and `SEQ` by 60_exceptions R270, the external agents' next answers as `a` says. -/
def State.endedErr (s : State) (e : CmdError) (a : Agents) : State :=
  { s with
    status := { s.status with busy := false, done := true, errf := true, wait := false }
    err := e.code, seq := 0, flight := .idle, agents := a }

end Sys2Proof.Machine
end

