-- ==== Sys2Proof/Certificates/Slice0/Obligations.lean ====
section
/-! DEFINITION. The statements for the provers. Each formalises what the spec says of a command or of the
machine; the docstring names the rule. The words the statements share come first. -/

open Sys2Proof Sys2Proof.Machine

namespace Sys2Proof.Machine

/-! ## Shared words -/

/-- A text of the record or of the registration, from its characters. -/
abbrev chars (cs : List Char) : List Byte := cs.map fun c => BitVec.ofNat 8 c.toNat

/-- `new` is `old` with the result `bs` in bytes `[0..len bs)` and every other byte as before
(10_state R27). -/
def resultIn (old new : Memory) (bs : List Byte) : Prop :=
  new.readBytes bs.length = bs ∧ ∀ j, bs.length ≤ j → new.read j = old.read j

/-- A command that leaves `bs` in `DOUT` and changes nothing else but what `s'` and `f` say: `s'` is the
state before with the command's other commits, `f` its effect on `TOKEN`, `MUSTP`, `WAIT`. -/
def answers (s' t : State) (f : Status → Status) (bs : List Byte) : Prop :=
  resultIn s'.dout t.dout bs ∧
  t = { s' with dout := t.dout, doutLen := BitVec.ofNat 32 bs.length }.endedOk f

/-- Step 1 of Emit OTP as a relation (44_state_machine R201): from the token registers and the random
source's answers to the local Counter, Session, PonRand and the answers left over. -/
def stepOne (t : Token) (draws rest : List (Option (BitVec 128))) (c : BitVec 16) (ses : BitVec 8)
    (pr : BitVec 32) : Prop :=
  (t.session.toNat ≠ 0xFF ∧ c = t.counter ∧ ses.toNat = t.session.toNat + 1 ∧ pr = t.ponRand ∧
    rest = draws) ∨
  (t.session.toNat = 0xFF ∧ t.counter.toNat < 0x7FFF ∧ c.toNat = t.counter.toNat + 1 ∧ ses = 1 ∧
    ∃ d, draws = some d :: rest ∧ pr.toNat = d.toNat % 2 ^ 32 / 16 * 16)

/-- Cases A and B of step 3 as a relation (44_state_machine R206): the local LastUse and PonRand after
it. -/
def stepThree (now lu : Time) (pr : BitVec 32) (lu' : Time) (pr' : BitVec 32) : Prop :=
  (now ≠ lu ∧ lu' = now ∧ pr'.toNat = pr.toNat / 16 * 16) ∨
  (now = lu ∧ pr.toNat % 16 ≤ 6 ∧ lu' = lu ∧ pr'.toNat = pr.toNat + 1)

/-- The block of an emission (44_state_machine R210, R211). -/
def emitted (t : Token) (c : BitVec 16) (ses : BitVec 8) (now : Time) (pr : BitVec 32)
    (rnd : BitVec 128) : Block :=
  { uid := t.privId, ctr := c,
    tstp := BitVec.ofNat 24 (((now.toNat - t.created.toNat) * 8 + pr.toNat) % 16777215),
    sess := ses, rnd := rnd.setWidth 16, crc := 0 }

/-- The OTP text of a block under a token's key (44_state_machine R212, 43_block_codec R174). -/
def otpText (t : Token) (f : Block) : List Byte :=
  mhxEnc t.pubId.toList ++ mhxEnc (Config.E t.key (serialize f.stamped)).toList

/-- `n` ticks of the sequencer. -/
def State.ticks : Nat → State → Host.Outcome State Fault Refusal
  | 0, s => .next s
  | n + 1, s =>
    match s.tick with
    | .next t => State.ticks n t
    | .fault f => .fault f
    | .refused r => .refused r

/-- `n` steps. -/
def State.steps : Nat → State → Host.Outcome State Fault Refusal
  | 0, s => .next s
  | n + 1, s =>
    match step s with
    | .next t => State.steps n t
    | .fault f => .fault f
    | .refused r => .refused r

/-- An `EMIT_OTP` leads from `s` to `t`: run from `s`, or held in its wait at `s` and asking the time
source once more (44_state_machine R200, R208). -/
def runsEmit (s t : State) : Prop :=
  exec .emitOtp s = .next t ∨ s.Inv ∧ s.flight.held = true ∧ s.advance = .next t

/-- Every scalar of the register map, as offset, container size, and what the host reads there
(20_memory R73, 10_state R29, R30). -/
def scalarView (s : State) : List (Nat × Nat × Nat) :=
  [(0x000, 1, 0),
   (0x004, 1, s.status.busy.toNat + 2 * s.status.done.toNat + 4 * s.status.errf.toNat +
      8 * s.status.wait.toNat + 16 * s.status.token.toNat + 32 * s.status.mustp.toNat),
   (0x008, 1, s.err.toNat), (0x00C, 1, s.seq.toNat),
   (0x010, 4, s.dinLen.toNat), (0x014, 4, s.doutLen.toNat), (0x018, 1, s.kinLen.toNat),
   (0x01C, 1, s.ovr.mask.toNat), (0x020, 2, s.ovr.initCtr.toNat), (0x024, 2, s.crcReg.toNat),
   (0x028, 2, s.token.counter.toNat), (0x02C, 1, s.token.session.toNat),
   (0x030, 4, s.token.ponRand.toNat), (0x038, 8, s.token.created.toNat),
   (0x040, 8, s.token.lastUse.toNat), (0x098, 2, s.block.ctr.toNat),
   (0x09C, 4, s.block.tstp.toNat), (0x0A0, 1, s.block.sess.toNat),
   (0x0A4, 2, s.block.rnd.toNat), (0x0A8, 2, s.block.crc.toNat)]

/-- Every byte register and buffer of the map, as first offset, number of bytes, and what the host reads
at an index (20_memory R73). -/
def bytesView (s : State) : List (Nat × Nat × (Nat → Byte)) :=
  [(0x048, 6, fun i => s.token.pubId.toList.getD i 0),
   (0x050, 6, fun i => s.token.privId.toList.getD i 0),
   (0x060, 16, fun i => s.token.key.toList.getD i 0),
   (0x070, 6, fun i => s.ovr.pubId.toList.getD i 0),
   (0x078, 6, fun i => s.ovr.privId.toList.getD i 0),
   (0x080, 16, fun i => s.ovr.key.toList.getD i 0),
   (0x090, 6, fun i => s.block.uid.toList.getD i 0),
   (0x0B0, 16, fun i => (serialize s.block).toList.getD i 0),
   (0x0C0, 32, fun i => s.kin.read i),
   (0x1000, Config.bufCap, fun i => s.din.read i),
   (0x1000 + Config.bufCap, 2 * Config.bufCap, fun i => s.dout.read i)]

/-- Every row of the map, as first offset and number of bytes (20_memory R73). -/
def mapRows (s : State) : List (Nat × Nat) :=
  (scalarView s).map (fun r => (r.1, r.2.1)) ++ (bytesView s).map (fun r => (r.1, r.2.1))

/-- Does an access of `n` bytes at `off` touch an offset that some row of the map lists? -/
def meetsRow (s : State) (off n : Nat) : Prop :=
  ∃ row ∈ mapRows s, off < row.1 + row.2 ∧ row.1 < off + n

/-- What a host write of `v` does to each writable scalar but `CMD`: offset, size, the state after
(20_memory R73). -/
def scalarWrites (s : State) (v : BitVec 64) : List (Nat × Nat × State) :=
  [(0x010, 4, { s with dinLen := v.setWidth 32 }),
   (0x018, 1, { s with kinLen := v.setWidth 8 }),
   (0x01C, 1, { s with ovr := { s.ovr with mask := v.setWidth 3 } }),
   (0x020, 2, { s with ovr := { s.ovr with initCtr := v.setWidth 16 } }),
   (0x028, 2, { s with token := { s.token with counter := v.setWidth 16 } }),
   (0x02C, 1, { s with token := { s.token with session := v.setWidth 8 } }),
   (0x030, 4, { s with token := { s.token with ponRand := v.setWidth 32 } }),
   (0x038, 8, { s with token := { s.token with created := v } }),
   (0x040, 8, { s with token := { s.token with lastUse := v } }),
   (0x098, 2, { s with block := { s.block with ctr := v.setWidth 16 } }),
   (0x09C, 4, { s with block := { s.block with tstp := v.setWidth 24 } }),
   (0x0A0, 1, { s with block := { s.block with sess := v.setWidth 8 } }),
   (0x0A4, 2, { s with block := { s.block with rnd := v.setWidth 16 } }),
   (0x0A8, 2, { s with block := { s.block with crc := v.setWidth 16 } })]

/-- What a host write of byte `b` at index `i` does to each writable byte register and buffer: first
offset, number of bytes, the state after (20_memory R73). -/
def byteWrites (s : State) (i : Nat) (b : Byte) : List (Nat × Nat × State) :=
  [(0x070, 6, { s with ovr := { s.ovr with pubId := s.ovr.pubId.setIfInBounds i b } }),
   (0x078, 6, { s with ovr := { s.ovr with privId := s.ovr.privId.setIfInBounds i b } }),
   (0x080, 16, { s with ovr := { s.ovr with key := s.ovr.key.setIfInBounds i b } }),
   (0x090, 6, { s with block := { s.block with uid := s.block.uid.setIfInBounds i b } }),
   (0x0C0, 32, { s with kin := s.kin.write i b }),
   (0x1000, Config.bufCap, { s with din := s.din.write i b })]

/-- The read-only rows of the map: first offset, access size, number of accesses (20_memory R73). -/
def readOnlyRows : List (Nat × Nat × Nat) :=
  [(0x004, 1, 1), (0x008, 1, 1), (0x00C, 1, 1), (0x014, 4, 1), (0x024, 2, 1),
   (0x048, 1, 6), (0x050, 1, 6), (0x060, 1, 16), (0x0B0, 1, 16),
   (0x1000 + Config.bufCap, 1, 2 * Config.bufCap)]

/-- The key names and values of the record in order, the value of a key a text (45_record R231, R234). -/
def recordFields (t : Token) : List (List Char × List Byte) :=
  [(['p', 'u', 'b', 'l', 'i', 'c', '_', 'i', 'd'], mhxEnc t.pubId.toList),
   (['p', 'r', 'i', 'v', 'a', 't', 'e', '_', 'i', 'd'], hexEnc t.privId.toList),
   (['a', 'e', 's', '_', 'k', 'e', 'y'], hexEnc t.key.toList),
   (['c', 'o', 'u', 'n', 't', 'e', 'r'], decText t.counter.toNat),
   (['s', 'e', 's', 's', 'i', 'o', 'n'], decText t.session.toNat),
   (['c', 'r', 'e', 'a', 't', 'e', 'd'], decText t.created.toNat),
   (['l', 'a', 's', 't', 'u', 's', 'e'], decText t.lastUse.toNat),
   (['p', 'o', 'n', 'r', 'a', 'n', 'd'], decText t.ponRand.toNat)]

/-- The record text of a token, eight lines each ended by `0x0A` (45_record R234). -/
def recordText (t : Token) : List Byte :=
  (recordFields t).flatMap fun kv => chars kv.1 ++ chars [':', ' '] ++ kv.2 ++ [0x0A]

/-- A byte value of a record line is converted by a decoder and its size is checked (45_record R237). -/
def convertsBytes (n : Nat) (decoded : Except CmdError (List Byte)) (loaded : Except CmdError Token)
    (put : Bytes n → Token) : Prop :=
  (∀ v : Bytes n, decoded = .ok v.toList → loaded = .ok (put v)) ∧
  (∀ b, decoded = .ok b → b.length ≠ n → loaded = .error .invalidLength) ∧
  (∀ e, decoded = .error e → loaded = .error .invalidEncoding)

/-- A number of a record line is converted by `ParseDec` (45_record R237). -/
def convertsNumber {n : Nat} (parsed : Except CmdError (BitVec n)) (loaded : Except CmdError Token)
    (put : BitVec n → Token) : Prop :=
  (∀ v, parsed = .ok v → loaded = .ok (put v)) ∧
  (∀ e, parsed = .error e → loaded = .error .badRecord)

/-- The successor stages of each stage of Emit OTP, the wait entered only from step 3 and left only to
step 3's end (10_state R33, 44_state_machine R213). -/
def stageSteps : List (EmitStage × EmitStage) :=
  [(.advance, .clock), (.clock, .collide), (.collide, .stamp), (.collide, .hold), (.hold, .hold),
   (.hold, .collideEnd), (.collideEnd, .stamp), (.stamp, .random), (.random, .build),
   (.build, .finish)]

/-- The errors each step of Emit OTP can end with (44_state_machine R201, R210, R219). -/
def stageErrors : List (EmitStage × CmdError) :=
  [(.advance, .counterExhausted), (.advance, .randomSourceFailure), (.stamp, .clockRollback),
   (.random, .randomSourceFailure)]

/-- The values the host polls after a command: `BUSY` 0 and `DONE` 1 (30_encoding R104). -/
def State.completed (s : State) : Prop :=
  s.flight = .idle ∧ s.status.busy = false ∧ s.status.done = true ∧ s.seq = 0

end Sys2Proof.Machine

/-! ## Encoding -/

/-- The sixteen codes of the command table, written out, decode to their commands (30_encoding R92). -/
def Obligations.CommandCodesDecode : Prop :=
  decode [0x10] = .ok (.mhxEnc, []) ∧ decode [0x11] = .ok (.mhxDec, []) ∧
  decode [0x12] = .ok (.hexEnc, []) ∧ decode [0x13] = .ok (.hexDec, []) ∧
  decode [0x20] = .ok (.crc16, []) ∧
  decode [0x30] = .ok (.aesEnc, []) ∧ decode [0x31] = .ok (.aesDec, []) ∧
  decode [0x40] = .ok (.blkStamp, []) ∧ decode [0x41] = .ok (.blkSer, []) ∧
  decode [0x42] = .ok (.blkEmit, []) ∧
  decode [0x50] = .ok (.create, []) ∧ decode [0x51] = .ok (.createOvr, []) ∧
  decode [0x52] = .ok (.emitOtp, []) ∧ decode [0x53] = .ok (.regExport, []) ∧
  decode [0x60] = .ok (.recLoad, []) ∧ decode [0x61] = .ok (.recSave, [])

/-- Decoding and encoding agree in both directions over every byte: a byte decodes to a command exactly
when it is that command's code, whatever bytes follow (30_encoding R90, R93). -/
def Obligations.DecodeEncodeAgree : Prop :=
  ∀ (v : Byte) (rest : List Byte) (i : Instr),
    (decode (v :: rest) = .ok (i, rest) ↔ v = i.code) ∧
    decode (encode i ++ rest) = .ok (i, rest) ∧ decodeTableWord 8 i.code.toNat = some i

/-! ## Reset and the invariant -/

/-- Reset leaves every register and buffer byte zero and no command in flight, and does not touch the
agents (10_state R36); of the model's own fields nothing more is said. -/
def Obligations.ResetLeavesZero : Prop :=
  State.reset.token =
      ⟨#v[0, 0, 0, 0, 0, 0], #v[0, 0, 0, 0, 0, 0], #v[0, 0, 0, 0, 0, 0, 0, 0, 0, 0, 0, 0, 0, 0, 0, 0],
        0, 0, 0, 0, 0⟩ ∧
  State.reset.block = ⟨#v[0, 0, 0, 0, 0, 0], 0, 0, 0, 0, 0⟩ ∧
  State.reset.ovr =
      ⟨0, #v[0, 0, 0, 0, 0, 0], #v[0, 0, 0, 0, 0, 0],
        #v[0, 0, 0, 0, 0, 0, 0, 0, 0, 0, 0, 0, 0, 0, 0, 0], 0⟩ ∧
  (∀ a, State.reset.din.read a = 0 ∧ State.reset.kin.read a = 0 ∧ State.reset.dout.read a = 0) ∧
  State.reset.dinLen = 0 ∧ State.reset.kinLen = 0 ∧ State.reset.doutLen = 0 ∧
  State.reset.crcReg = 0 ∧ State.reset.status.toByte = 0 ∧ State.reset.err = 0 ∧
  State.reset.seq = 0 ∧ State.reset.flight = .idle ∧
  (serialize State.reset.block).toList = List.replicate 16 0 ∧
  ∀ s : State, ∃ t, s.act .reset = .next t ∧ t.agents = s.agents ∧
    { t with agents := State.reset.agents, inputs := [], busData := none } = State.reset

/-- The invariant holds after reset. `State.Inv` is the model's collection of rules (logs 1, 5, 7). -/
def Obligations.ResetHasInvariant : Prop := State.reset.Inv

/-- Every step keeps the invariant: buffers canonical and within capacity, `BUSY`, `WAIT` and `SEQ` tell
what is in flight, `ERRF` tells `ERR`, `ERR` holds only the codes the block raises, `MUSTP` only with
`TOKEN` (10_state R27, R30, R32, R33; 60_exceptions R260). The value of `SEQ` for a command taken and
`ERR = 0` while busy are the model's reading (logs 5, 7). -/
def Obligations.StepKeepsInvariant : Prop :=
  ∀ s t : State, s.Inv → step s = .next t → t.Inv

/-- The reset event at any moment, a command in flight or not: the state of reset, the agents and the
rest of the host's accesses untouched (70_reset_and_hazards R300). That the host's accesses and `busData`
stay is the model's choice (log 13). -/
def Obligations.ResetEventIsTotal : Prop :=
  ∀ (s : State) (rest : List HostAct), s.inputs = .reset :: rest →
    step s = .next { State.reset with agents := s.agents, inputs := rest, busData := s.busData }

/-! ## A step runs the command taken -/

/-- A step of a state whose taken code decodes to a command is `exec` of it: when the outside has nothing
pending, or lets the block run; and `withFetchWord` makes it the next thing that happens (20_memory R78,
R82; log 4). Taking a code and running it as two steps is the model's choice (logs 4, 5). -/
def Obligations.StepRunsTakenCommand : Prop :=
  ∀ (s : State) (v : Byte) (i : Instr) (rest : List HostAct), decode [v] = .ok (i, []) →
    i.wellFormed = true →
    (s.flight = .latched v → s.inputs = [] → step s = exec i s) ∧
    (s.flight = .latched v → s.inputs = .run :: rest →
      step s = exec i { s with inputs := rest }) ∧
    step (s.withFetchWord 8 v.toNat) = exec i { s with flight := .latched v }

/-- A `CMD` write while no command is in flight: a code of the table starts its command, `BUSY` set and
the last indications cleared, the code taken; any other completes at once with `IllegalCommand` and
changes nothing else (30_encoding R93, 60_exceptions R274). That the command runs in a later step is the
model's choice (log 5). -/
def Obligations.CmdWriteTakesTheCode : Prop :=
  ∀ (s : State) (v : BitVec 64) (rest : List HostAct),
    s.status.busy = false → s.inputs = .write Config.base 1 v :: rest →
    (∀ i : Instr, v.setWidth 8 = i.code →
      step s = .next { s with
        inputs := rest
        status := { s.status with busy := true, done := false, errf := false }
        err := 0
        seq := if i = .emitOtp then 0x01 else 0x10
        flight := .latched i.code }) ∧
    ((∀ i : Instr, v.setWidth 8 ≠ i.code) →
      step s = .next ({ s with inputs := rest }.endedErr .illegalCommand s.agents))

/-! ## Text codecs -/

/-- Both codecs: the symbol of each nibble (R120, R124); encode then decode is the identity; decode then
encode lowers the case and is the identity on lower-case texts; the lengths double and halve
(40_text_codecs R127; the law on upper-case texts is the spec's own inference, R127 clause 4). -/
def Obligations.TextCodecLaws : Prop :=
  (∀ n : BitVec 4, some (alphaA n) = (chars ['c', 'b', 'd', 'e', 'f', 'g', 'h', 'i', 'j', 'k', 'l',
      'n', 'r', 't', 'u', 'v'])[n.toNat]? ∧
    some (hexD n) = (chars ['0', '1', '2', '3', '4', '5', '6', '7', '8', '9', 'a', 'b', 'c', 'd',
      'e', 'f'])[n.toNat]?) ∧
  (∀ b, mhxDec (mhxEnc b) = .ok b ∧ hexDec (hexEnc b) = .ok b ∧
    (mhxEnc b).length = 2 * b.length ∧ (hexEnc b).length = 2 * b.length) ∧
  (∀ t b, mhxDec t = .ok b → 2 * b.length = t.length ∧
    mhxEnc b = t.map fun ch => if 0x41 ≤ ch ∧ ch ≤ 0x5A then ch + 0x20 else ch) ∧
  (∀ t b, hexDec t = .ok b → 2 * b.length = t.length ∧
    hexEnc b = t.map fun ch => if 0x41 ≤ ch ∧ ch ≤ 0x5A then ch + 0x20 else ch) ∧
  (∀ t, t.length % 2 = 0 → (∀ ch ∈ t, ch ∈ chars ['c', 'b', 'd', 'e', 'f', 'g', 'h', 'i', 'j', 'k',
      'l', 'n', 'r', 't', 'u', 'v']) → ∃ b, mhxDec t = .ok b ∧ mhxEnc b = t) ∧
  (∀ t, t.length % 2 = 0 → (∀ ch ∈ t, ch ∈ chars ['0', '1', '2', '3', '4', '5', '6', '7', '8', '9',
      'a', 'b', 'c', 'd', 'e', 'f']) → ∃ b, hexDec t = .ok b ∧ hexEnc b = t)

/-- When a decoder fails: exactly on an odd length or a character outside its alphabet in either case,
and then with `InvalidEncoding` (40_text_codecs R122, R126). -/
def Obligations.DecodersRejectExactly : Prop :=
  (∀ t, mhxDec t = .error .invalidEncoding ↔
    t.length % 2 = 1 ∨ ∃ ch ∈ t, ch ∉ chars ['c', 'b', 'd', 'e', 'f', 'g', 'h', 'i', 'j', 'k', 'l',
      'n', 'r', 't', 'u', 'v', 'C', 'B', 'D', 'E', 'F', 'G', 'H', 'I', 'J', 'K', 'L', 'N', 'R', 'T',
      'U', 'V']) ∧
  (∀ t, hexDec t = .error .invalidEncoding ↔
    t.length % 2 = 1 ∨ ∃ ch ∈ t, ch ∉ chars ['0', '1', '2', '3', '4', '5', '6', '7', '8', '9', 'a',
      'b', 'c', 'd', 'e', 'f', 'A', 'B', 'C', 'D', 'E', 'F'])

/-- `MHX_ENC` (40_text_codecs R128): code, the two symbols of each byte high nibble first, `DOUT` above
the result and everything else unchanged, `BadOperand` beyond the buffer. -/
def Obligations.MhxEncResult : Prop :=
  decode [0x10] = .ok (.mhxEnc, []) ∧ ∀ s : State, s.dout.wf →
    (s.dinLen.toNat ≤ Config.bufCap →
      ∃ t, exec .mhxEnc s = .next t ∧
        t = { s with dout := t.dout, doutLen := t.doutLen }.endedOk id ∧
        t.doutLen.toNat = 2 * s.dinLen.toNat ∧
        (∀ i < s.dinLen.toNat,
          t.dout.read (2 * i) = alphaA ((s.din.read i).extractLsb' 4 4) ∧
          t.dout.read (2 * i + 1) = alphaA ((s.din.read i).extractLsb' 0 4)) ∧
        ∀ j, 2 * s.dinLen.toNat ≤ j → t.dout.read j = s.dout.read j) ∧
    (Config.bufCap < s.dinLen.toNat →
      exec .mhxEnc s = .next (s.endedErr .badOperand s.agents))

/-- `HEX_ENC` (40_text_codecs R130). -/
def Obligations.HexEncResult : Prop :=
  decode [0x12] = .ok (.hexEnc, []) ∧ ∀ s : State, s.dout.wf →
    (s.dinLen.toNat ≤ Config.bufCap →
      ∃ t, exec .hexEnc s = .next t ∧
        t = { s with dout := t.dout, doutLen := t.doutLen }.endedOk id ∧
        t.doutLen.toNat = 2 * s.dinLen.toNat ∧
        (∀ i < s.dinLen.toNat,
          t.dout.read (2 * i) = hexD ((s.din.read i).extractLsb' 4 4) ∧
          t.dout.read (2 * i + 1) = hexD ((s.din.read i).extractLsb' 0 4)) ∧
        ∀ j, 2 * s.dinLen.toNat ≤ j → t.dout.read j = s.dout.read j) ∧
    (Config.bufCap < s.dinLen.toNat →
      exec .hexEnc s = .next (s.endedErr .badOperand s.agents))

/-- `MHX_DEC` (40_text_codecs R129): for a valid text each byte is sixteen times the value of its first
symbol plus the value of its second; for odd length or a bad character `InvalidEncoding`; for a length
beyond the buffer `BadOperand`. -/
def Obligations.MhxDecResult : Prop :=
  decode [0x11] = .ok (.mhxDec, []) ∧ ∀ s : State, s.dout.wf →
    (s.dinLen.toNat ≤ Config.bufCap → s.dinLen.toNat % 2 = 0 →
      (∀ i < s.dinLen.toNat, aval (s.din.read i) ≠ none) →
      ∃ t, exec .mhxDec s = .next t ∧
        t = { s with dout := t.dout, doutLen := t.doutLen }.endedOk id ∧
        t.doutLen.toNat = s.dinLen.toNat / 2 ∧
        (∀ i < s.dinLen.toNat / 2, ∃ h l, aval (s.din.read (2 * i)) = some h ∧
          aval (s.din.read (2 * i + 1)) = some l ∧
          (t.dout.read i).toNat = 16 * h.toNat + l.toNat) ∧
        ∀ j, s.dinLen.toNat / 2 ≤ j → t.dout.read j = s.dout.read j) ∧
    (s.dinLen.toNat ≤ Config.bufCap →
      (s.dinLen.toNat % 2 = 1 ∨ ∃ i < s.dinLen.toNat, aval (s.din.read i) = none) →
      exec .mhxDec s = .next (s.endedErr .invalidEncoding s.agents)) ∧
    (Config.bufCap < s.dinLen.toNat →
      exec .mhxDec s = .next (s.endedErr .badOperand s.agents))

/-- `HEX_DEC` (40_text_codecs R131). -/
def Obligations.HexDecResult : Prop :=
  decode [0x13] = .ok (.hexDec, []) ∧ ∀ s : State, s.dout.wf →
    (s.dinLen.toNat ≤ Config.bufCap → s.dinLen.toNat % 2 = 0 →
      (∀ i < s.dinLen.toNat, hval (s.din.read i) ≠ none) →
      ∃ t, exec .hexDec s = .next t ∧
        t = { s with dout := t.dout, doutLen := t.doutLen }.endedOk id ∧
        t.doutLen.toNat = s.dinLen.toNat / 2 ∧
        (∀ i < s.dinLen.toNat / 2, ∃ h l, hval (s.din.read (2 * i)) = some h ∧
          hval (s.din.read (2 * i + 1)) = some l ∧
          (t.dout.read i).toNat = 16 * h.toNat + l.toNat) ∧
        ∀ j, s.dinLen.toNat / 2 ≤ j → t.dout.read j = s.dout.read j) ∧
    (s.dinLen.toNat ≤ Config.bufCap →
      (s.dinLen.toNat % 2 = 1 ∨ ∃ i < s.dinLen.toNat, hval (s.din.read i) = none) →
      exec .hexDec s = .next (s.endedErr .invalidEncoding s.agents)) ∧
    (Config.bufCap < s.dinLen.toNat →
      exec .hexDec s = .next (s.endedErr .badOperand s.agents))

/-! ## Checksum -/

/-- The byte-wise and the bit-serial form of the checksum agree on every input (41_checksum R142). An
inference the spec marks as its own: "It yields the same value as rule R141 for every input". -/
def Obligations.ChecksumFormsAgree : Prop := ∀ data : List Byte, crc16 data = crc16Serial data

/-- The residual law (41_checksum R143): a byte sequence with the complement of its checksum appended
low byte first has checksum `0xF0B8`. -/
def Obligations.ChecksumResidual : Prop :=
  ∀ data : List Byte, crc16 (data ++ le16 (~~~ crc16 data)) = 0xF0B8

/-- `CRC16` (41_checksum R144). -/
def Obligations.Crc16Result : Prop :=
  decode [0x20] = .ok (.crc16, []) ∧ ∀ s : State,
    (s.dinLen.toNat ≤ Config.bufCap →
      exec .crc16 s = .next
        ({ s with crcReg := crc16 ((List.range s.dinLen.toNat).map s.din.read) }.endedOk id)) ∧
    (Config.bufCap < s.dinLen.toNat →
      exec .crc16 s = .next (s.endedErr .badOperand s.agents))

/-! ## Cipher adapter -/

/-- `AES_ENC` (42_cipher_adapter R158): one block under the key in `KIN`, `InvalidLength` unless both
lengths are 16, `BadOperand` for a length beyond its buffer. -/
def Obligations.AesEncResult : Prop :=
  decode [0x30] = .ok (.aesEnc, []) ∧ ∀ s : State, s.dout.wf →
    (∀ k b : Bytes 16, s.kinLen = 16 → s.dinLen = 16 → s.kin.readBytes 16 = k.toList →
      s.din.readBytes 16 = b.toList →
      ∃ t, exec .aesEnc s = .next t ∧ answers s t id (Config.E k b).toList) ∧
    (s.dinLen.toNat ≤ Config.bufCap → s.kinLen.toNat ≤ 32 → (s.kinLen ≠ 16 ∨ s.dinLen ≠ 16) →
      exec .aesEnc s = .next (s.endedErr .invalidLength s.agents)) ∧
    (Config.bufCap < s.dinLen.toNat ∨ 32 < s.kinLen.toNat →
      exec .aesEnc s = .next (s.endedErr .badOperand s.agents))

/-- `AES_DEC` (42_cipher_adapter R159), with the inverse function of the pair (log 2). -/
def Obligations.AesDecResult : Prop :=
  decode [0x31] = .ok (.aesDec, []) ∧ ∀ s : State, s.dout.wf →
    (∀ k b : Bytes 16, s.kinLen = 16 → s.dinLen = 16 → s.kin.readBytes 16 = k.toList →
      s.din.readBytes 16 = b.toList →
      ∃ t, exec .aesDec s = .next t ∧ answers s t id (Config.Dc k b).toList) ∧
    (s.dinLen.toNat ≤ Config.bufCap → s.kinLen.toNat ≤ 32 → (s.kinLen ≠ 16 ∨ s.dinLen ≠ 16) →
      exec .aesDec s = .next (s.endedErr .invalidLength s.agents)) ∧
    (Config.bufCap < s.dinLen.toNat ∨ 32 < s.kinLen.toNat →
      exec .aesDec s = .next (s.endedErr .badOperand s.agents))

/-! ## Block codec -/

/-- The sixteen offsets of the block (30_encoding R94), as `BLKIMG` shows them. -/
def Obligations.BlockLayout : Prop :=
  ∀ f : Block, (serialize f).toList =
    f.uid.toList ++
    [f.ctr.extractLsb' 0 8, f.ctr.extractLsb' 8 8,
     f.tstp.extractLsb' 0 8, f.tstp.extractLsb' 8 8, f.tstp.extractLsb' 16 8,
     f.sess,
     f.rnd.extractLsb' 0 8, f.rnd.extractLsb' 8 8,
     f.crc.extractLsb' 0 8, f.crc.extractLsb' 8 8]

/-- `Parse` and `Serialize` invert each other (43_block_codec R180, R171). An inference the spec marks as
its own: `Parse(Serialize(f)) = f` and `Serialize(Parse(img)) = img`. -/
def Obligations.SerializeParseInverse : Prop :=
  (∀ f : Block, parseBlock (serialize f) = f) ∧ ∀ img : Bytes 16, serialize (parseBlock img) = img

/-- The stamped-block law (43_block_codec R173). An inference the spec marks as its own: "this is what
makes the whole-block residual check pass downstream". -/
def Obligations.StampedBlockResidual : Prop :=
  ∀ f : Block, crc16 (serialize { f with crc := stamp f }).toList = 0xF0B8

/-- Under one key of 16 bytes, two blocks that differ in any of the five fields given to `Emit` give
different texts of 32 characters (43_block_codec R174, R175). An inference the spec marks as its own:
"different texts under one key" (and log 2). -/
def Obligations.EmitIsInjective : Prop :=
  ∀ (key : Bytes 16) (f g : Block), ∃ k k' t t',
    emitBlock key.toList f = .ok (k, t) ∧ emitBlock key.toList g = .ok (k', t') ∧
    t.length = 32 ∧ (t = t' → f.uid = g.uid ∧ f.ctr = g.ctr ∧ f.tstp = g.tstp ∧ f.sess = g.sess ∧
      f.rnd = g.rnd)

/-- `BLK_STAMP` (43_block_codec R177): `F_CRC` becomes the complement of the checksum of the first
fourteen bytes, whatever it was, and nothing else changes; twice gives the same as once. -/
def Obligations.BlkStampResult : Prop :=
  decode [0x40] = .ok (.blkStamp, []) ∧ ∀ s : State,
    exec .blkStamp s = .next
      ({ s with block := { s.block with
          crc := ~~~ crc16 (s.block.uid.toList ++ le16 s.block.ctr ++
            [s.block.tstp.extractLsb' 0 8, s.block.tstp.extractLsb' 8 8,
             s.block.tstp.extractLsb' 16 8, s.block.sess] ++ le16 s.block.rnd) } }.endedOk id) ∧
    ∀ t u, exec .blkStamp s = .next t → exec .blkStamp t = .next u → u.block = t.block

/-- `BLK_SER` (43_block_codec R178): the sixteen bytes of the block operand registers, `F_CRC` as it
stands; the result equals `BLKIMG`. -/
def Obligations.BlkSerResult : Prop :=
  decode [0x41] = .ok (.blkSer, []) ∧ ∀ s : State, s.dout.wf →
    ∃ t, exec .blkSer s = .next t ∧ answers s t id
      (s.block.uid.toList ++ le16 s.block.ctr ++
        [s.block.tstp.extractLsb' 0 8, s.block.tstp.extractLsb' 8 8,
         s.block.tstp.extractLsb' 16 8, s.block.sess] ++ le16 s.block.rnd ++ le16 s.block.crc) ∧
      t.dout.readBytes 16 = (serialize t.block).toList

/-- `BLK_EMIT` (43_block_codec R179): with a key of 16 bytes the stamped checksum goes to `F_CRC` and the
32 characters to `DOUT`; with any other length `InvalidLength` and `F_CRC` is not written; with a
length beyond `KIN`, `BadOperand`. -/
def Obligations.BlkEmitResult : Prop :=
  decode [0x42] = .ok (.blkEmit, []) ∧ ∀ s : State, s.dout.wf →
    (∀ k : Bytes 16, s.kinLen = 16 → s.kin.readBytes 16 = k.toList →
      ∃ t, exec .blkEmit s = .next t ∧
        answers { s with block := { s.block with crc := stamp s.block } } t id
          (mhxEnc (Config.E k (serialize { s.block with crc := stamp s.block })).toList)) ∧
    (s.kinLen.toNat ≤ 32 → s.kinLen ≠ 16 →
      exec .blkEmit s = .next (s.endedErr .invalidLength s.agents)) ∧
    (32 < s.kinLen.toNat → exec .blkEmit s = .next (s.endedErr .badOperand s.agents))

/-! ## Token state machine -/

/-- `CREATE` (44_state_machine R191, R192): with four draws that deliver, the token of the rule; the
bytes of a draw by log 8, the answers as listed by log 3. -/
def Obligations.CreateResult : Prop :=
  decode [0x50] = .ok (.create, []) ∧
  ∀ (s : State) (now : Time) (ts : List Time) (a b c d : BitVec 128)
    (ds : List (Option (BitVec 128))),
    s.agents.times = now :: ts → s.agents.draws = some a :: some b :: some c :: some d :: ds →
    ∃ t, exec .create s = .next t ∧
      t = { s with
        token := t.token
        agents := { s.agents with times := ts, draws := ds } }.endedOk
          (fun f => { f with token := true, mustp := false }) ∧
      t.token.pubId.toList = [0x22, 0x22] ++ (bytesOfDraw 4 (a.setWidth 32)).toList ∧
      t.token.privId = bytesOfDraw 6 (b.setWidth 48) ∧ t.token.key = bytesOfDraw 16 c ∧
      t.token.counter = 1 ∧ t.token.session = 1 ∧ t.token.created = now ∧
      t.token.lastUse = now ∧ t.token.ponRand.toNat = d.toNat % 2 ^ 32 / 16 * 16 ∧ t.WF

/-- `CREATE_OVR` (44_state_machine R195): every supplied field byte for byte, Counter the initial counter
plus one, for each combination of supplied fields; `BadOperand` for `INITCTR = 0xFFFF`. The bytes of a
draw are by log 8, the answers as listed by log 3: the model's choice. -/
def Obligations.CreateOvrResult : Prop :=
  decode [0x51] = .ok (.createOvr, []) ∧ ∀ s : State,
    (s.ovr.initCtr = 0xFFFF → exec .createOvr s = .next (s.endedErr .badOperand s.agents)) ∧
    (s.ovr.initCtr ≠ 0xFFFF →
      ∀ (now : Time) (ts : List Time) (d : BitVec 128)
        (pubs privs keys ds : List (Option (BitVec 128))),
      s.agents.times = now :: ts →
      s.agents.draws = pubs ++ privs ++ keys ++ some d :: ds →
      (s.ovr.mask.getLsbD 0 = true ∧ pubs = [] ∨
        s.ovr.mask.getLsbD 0 = false ∧ ∃ a, pubs = [some a]) →
      (s.ovr.mask.getLsbD 1 = true ∧ privs = [] ∨
        s.ovr.mask.getLsbD 1 = false ∧ ∃ b, privs = [some b]) →
      (s.ovr.mask.getLsbD 2 = true ∧ keys = [] ∨
        s.ovr.mask.getLsbD 2 = false ∧ ∃ c, keys = [some c]) →
      ∃ t, exec .createOvr s = .next t ∧
        t = { s with
          token := t.token
          agents := { s.agents with times := ts, draws := ds } }.endedOk
            (fun f => { f with token := true, mustp := false }) ∧
        (s.ovr.mask.getLsbD 0 = true → t.token.pubId = s.ovr.pubId) ∧
        (∀ a, pubs = [some a] →
          t.token.pubId.toList = [0x22, 0x22] ++ (bytesOfDraw 4 (a.setWidth 32)).toList) ∧
        (s.ovr.mask.getLsbD 1 = true → t.token.privId = s.ovr.privId) ∧
        (∀ b, privs = [some b] → t.token.privId = bytesOfDraw 6 (b.setWidth 48)) ∧
        (s.ovr.mask.getLsbD 2 = true → t.token.key = s.ovr.key) ∧
        (∀ c, keys = [some c] → t.token.key = bytesOfDraw 16 c) ∧
        t.token.counter.toNat = s.ovr.initCtr.toNat + 1 ∧ t.token.session = 1 ∧
        t.token.created = now ∧ t.token.lastUse = now ∧
        t.token.ponRand.toNat = d.toNat % 2 ^ 32 / 16 * 16)

/-- A draw that fails ends `CREATE` and `CREATE_OVR` with `RandomSourceFailure` and no register changed,
whichever of the draws the command makes it is: four for `CREATE`, one less for each supplied field for
`CREATE_OVR` (60_exceptions R263, 44_state_machine R191, R195). The listing of the answers is the model's
choice (logs 3, 12). -/
def Obligations.FailedDrawCommitsNothing : Prop :=
  (∀ (s : State) (ok : List (BitVec 128)) (ds : List (Option (BitVec 128))), ok.length ≤ 3 →
    s.agents.draws = ok.map some ++ none :: ds →
    ∃ a, exec .create s = .next (s.endedErr .randomSourceFailure a) ∧ a.draws = ds) ∧
  (∀ (s : State) (ok : List (BitVec 128)) (ds : List (Option (BitVec 128))),
    s.ovr.initCtr ≠ 0xFFFF →
    ok.length + (s.ovr.mask.getLsbD 0).toNat + (s.ovr.mask.getLsbD 1).toNat +
      (s.ovr.mask.getLsbD 2).toNat ≤ 3 →
    s.agents.draws = ok.map some ++ none :: ds →
    ∃ a, exec .createOvr s = .next (s.endedErr .randomSourceFailure a) ∧ a.draws = ds)

/-- `EMIT_OTP` in cases A and B (44_state_machine R200, R201, R206, R210 to R212): with a token, Counter
not exhausted, the draws delivering and the reading not before `CREATED`, it completes: the registers of
step 1 and step 3, the 44 characters in `DOUT`, `MUSTP` set, nothing else changed. The listing of the
answers is the model's choice (log 3). -/
def Obligations.EmitOtpCompletes : Prop :=
  decode [0x52] = .ok (.emitOtp, []) ∧
  ∀ (s : State) (now : Time) (ts : List Time) (d : BitVec 128)
    (rest : List (Option (BitVec 128))) (c : BitVec 16) (ses : BitVec 8) (pr : BitVec 32)
    (lu' : Time) (pr' : BitVec 32),
    s.dout.wf → s.status.token = true → s.agents.times = now :: ts →
    stepOne s.token s.agents.draws (some d :: rest) c ses pr →
    stepThree now s.token.lastUse pr lu' pr' → s.token.created.toNat ≤ now.toNat →
    ∃ t, exec .emitOtp s = .next t ∧
      answers
        { s with
          token := { s.token with counter := c, session := ses, lastUse := lu', ponRand := pr' }
          agents := { s.agents with times := ts, draws := rest } }
        t (fun f => { f with mustp := true })
        (otpText s.token (emitted s.token c ses now pr' d))

/-- `EMIT_OTP` in case C (44_state_machine R206, R208): with a token, Counter not exhausted, a reading
equal to `LASTUSE` and a low nibble above 6, it is held: `WAIT` and `BUSY` set, `SEQ = 0x08`, the local
values kept, no register changed. The listing of the answers and the held state are the model's choice
(logs 3, 5). -/
def Obligations.EmitOtpEntersTheWait : Prop :=
  ∀ (s : State) (now : Time) (ts : List Time) (rest : List (Option (BitVec 128))) (c : BitVec 16)
    (ses : BitVec 8) (pr : BitVec 32),
    s.status.token = true → s.agents.times = now :: ts →
    stepOne s.token s.agents.draws rest c ses pr →
    now = s.token.lastUse → 6 < pr.toNat % 16 →
    ∃ l : EmitLocals, l.ctr = c ∧ l.sess = ses ∧ l.lastUse = s.token.lastUse ∧ l.ponRand = pr ∧
      l.now = now ∧
      exec .emitOtp s = .next { s with
        status := { s.status with busy := true, done := false, errf := false, wait := true }
        err := 0
        seq := 0x08
        flight := .emit .hold l
        agents := { s.agents with times := ts, draws := rest } }

/-- The wait (44_state_machine R208, R209; 60_exceptions R286): a reading not above `now` leaves
everything as it is; a reading above `now` ends it, and with the reading not before `CREATED` and the
draw delivering the command completes, `LASTUSE` as it was, the low nibble cleared, the Timestamp from
the later reading. One reading a step is the model's form (log 14). -/
def Obligations.WaitEndsAtALaterReading : Prop :=
  ∀ (s : State) (l : EmitLocals) (r : Time) (ts : List Time), s.Inv → s.inputs = [] →
    s.flight = .emit .hold l → s.agents.times = r :: ts →
    (r.toNat ≤ l.now.toNat → step s = .next { s with agents := { s.agents with times := ts } }) ∧
    (l.now.toNat < r.toNat → s.token.created.toNat ≤ r.toNat →
      ∀ (d : BitVec 128) (rest : List (Option (BitVec 128))) (pr' : BitVec 32),
      s.agents.draws = some d :: rest → pr'.toNat = l.ponRand.toNat / 16 * 16 →
      ∃ t, step s = .next t ∧ t.token.lastUse = s.token.lastUse ∧
        answers
          { s with
            token := { s.token with counter := l.ctr, session := l.sess, ponRand := pr' }
            agents := { s.agents with times := ts, draws := rest } }
          t (fun f => { f with wait := false, mustp := true })
          (otpText s.token (emitted s.token l.ctr l.sess r pr' d)))

/-- The wait under the fairness assumption on the time agent (60_exceptions R286 clause 1, 44_state_machine
R208, 93 U1). Left alone, the block stays held, no register changed, as long as no reading is above `now`,
and the command has ended after the first one that is; so with an advancing time source "the operation
always completes with a result", and with one that never advances it never ends. One reading a step, and
that the duty leaves out the greatest 64-bit time, are the model's form (log 14). -/
def Obligations.FairClockEndsTheWait : Prop :=
  ∀ (s : State) (l : EmitLocals), s.Inv → s.inputs = [] → s.flight = .emit .hold l →
    (∀ n, (∀ k < n, s.agents.reading k ≤ l.now) →
      ∃ a, s.steps n = .next { s with agents := a }) ∧
    (∀ n, (∀ k < n, s.agents.reading k ≤ l.now) → l.now < s.agents.reading n →
      ∃ t, s.steps (n + 1) = .next t ∧ t.completed ∧ t.status.wait = false) ∧
    (s.agents.advancing → l.now ≠ BitVec.allOnes 64 →
      ∃ n t, s.steps n = .next t ∧ t.completed ∧ t.status.wait = false)

/-- `CounterExhausted` (60_exceptions R264, 44_state_machine R204): the commands that end with it are
exactly the `EMIT_OTP` started with a token, `SESSION = 0xFF` and `COUNTER >= 0x7FFF`; nothing changes,
no agent is asked, and the next `EMIT_OTP` fails the same way. -/
def Obligations.CounterExhaustedIsFinal : Prop :=
  (∀ (i : Instr) (s t : State), exec i s = .next t →
    (t.err = 0x04 ↔ i = .emitOtp ∧ s.status.token = true ∧ s.token.session = 0xFF ∧
      0x7FFF ≤ s.token.counter.toNat)) ∧
  ∀ s : State, s.status.token = true → s.token.session = 0xFF → 0x7FFF ≤ s.token.counter.toNat →
    exec .emitOtp s = .next (s.endedErr .counterExhausted s.agents) ∧
    ∀ s' : State, s'.token = s.token → s'.status.token = true →
      exec .emitOtp s' = .next (s'.endedErr .counterExhausted s'.agents)

/-- `NoToken` (60_exceptions R269): the three commands that need a token fail without one. -/
def Obligations.CommandsNeedAToken : Prop :=
  ∀ s : State, s.status.token = false →
    exec .emitOtp s = .next (s.endedErr .noToken s.agents) ∧
    exec .regExport s = .next (s.endedErr .noToken s.agents) ∧
    exec .recSave s = .next (s.endedErr .noToken s.agents)

/-- The later errors of `EMIT_OTP` (60_exceptions R263, R265; 44_state_machine R210, R219): a reading
before `CREATED` gives `ClockRollback`, a failing draw gives `RandomSourceFailure` at step 1 or step 5,
and both arise after a wait too; no register changes. The listing of the answers is the model's choice
(logs 3, 12). -/
def Obligations.EmitOtpLaterErrors : Prop :=
  ∀ s : State, s.status.token = true →
    (∀ (ds : List (Option (BitVec 128))), s.token.session = 0xFF → s.token.counter.toNat < 0x7FFF →
      s.agents.draws = none :: ds →
      exec .emitOtp s =
        .next (s.endedErr .randomSourceFailure { s.agents with draws := ds })) ∧
    (∀ (now : Time) (ts : List Time) (ds rest : List (Option (BitVec 128))) (c : BitVec 16)
      (ses : BitVec 8) (pr : BitVec 32) (lu' : Time) (pr' : BitVec 32),
      s.agents.times = now :: ts → stepOne s.token s.agents.draws rest c ses pr →
      stepThree now s.token.lastUse pr lu' pr' →
      (now.toNat < s.token.created.toNat →
        exec .emitOtp s =
          .next (s.endedErr .clockRollback { s.agents with times := ts, draws := rest })) ∧
      (s.token.created.toNat ≤ now.toNat → rest = none :: ds →
        exec .emitOtp s =
          .next (s.endedErr .randomSourceFailure { s.agents with times := ts, draws := ds }))) ∧
    (∀ (l : EmitLocals) (r : Time) (ts : List Time) (ds : List (Option (BitVec 128))),
      s.inputs = [] → s.flight = .emit .hold l → s.agents.times = r :: ts →
      l.now.toNat < r.toNat →
      (r.toNat < s.token.created.toNat →
        step s = .next (s.endedErr .clockRollback { s.agents with times := ts })) ∧
      (s.token.created.toNat ≤ r.toNat → s.agents.draws = none :: ds →
        step s =
          .next (s.endedErr .randomSourceFailure { s.agents with times := ts, draws := ds })))

/-- The Timestamp (44_state_machine R210): exact arithmetic, one reduction modulo `0xFFFFFF`, the value
`0xFFFFFF` never produced, the same value again after 16 777 215 seconds. The last two clauses are
inferences the spec marks as its own in R210. -/
def Obligations.TimestampIsExact : Prop :=
  ∀ (now created : Time) (pr : BitVec 32), created.toNat ≤ now.toNat →
    (timestamp now created pr).toNat =
      ((now.toNat - created.toNat) * 8 + pr.toNat) % 16777215 ∧
    (timestamp now created pr).toNat ≤ 0xFFFFFE ∧
    (∀ later : Time, later.toNat = now.toNat + 16777215 →
      timestamp later created pr = timestamp now created pr) ∧
    pr.toNat % 16777215 = (pr.toNat / 2 ^ 24 + pr.toNat % 2 ^ 24) % 16777215

/-- What an `EMIT_OTP`, run at once or resumed after its wait, does to Counter, Session and PonRand
(44_state_machine R201, R202, R207): Counter changes only at a session wrap; without a wrap the upper 28
bits of PonRand stay; Session 0 is never issued; the low nibble it leaves is at most 7. These are inferences the spec marks as its own in R201,
R202 and R207. -/
def Obligations.OnlyAWrapChangesCounter : Prop :=
  ∀ s t : State, runsEmit s t →
    (t.token.counter ≠ s.token.counter → s.token.session = 0xFF ∧ t.token.session = 1) ∧
    (s.token.session ≠ 0xFF → t.token.ponRand.toNat / 16 = s.token.ponRand.toNat / 16) ∧
    (t.completed → t.err = 0 → t.token.session ≠ 0 ∧ t.token.ponRand.toNat % 16 ≤ 7)

/-- Of two successive successful emissions, each run at once or ended after its wait, the later has the
greater (Counter, Session), by one Session or by one Counter with Session back at 1, and the two OTP texts
differ (44_state_machine R216). The second starts, at `v`, from the token registers that the first left.
An inference the spec marks as its own: "Two successive successful emissions of one token always
differ". -/
def Obligations.SuccessiveEmissionsDiffer : Prop :=
  ∀ s t v u : State, s.dout.wf → v.dout.wf → runsEmit s t → t.completed → t.err = 0 →
    (t.token.counter = s.token.counter ∧ t.token.session.toNat = s.token.session.toNat + 1 ∨
      s.token.session = 0xFF ∧ t.token.session = 1 ∧
        t.token.counter.toNat = s.token.counter.toNat + 1) ∧
    (v.token = t.token → runsEmit v u → u.completed → u.err = 0 →
      t.dout.readBytes 44 ≠ u.dout.readBytes 44)

/-- "LastUse only moves forward" and `WF` is kept, under a reading not before `LASTUSE`, and without one at
the end of a wait (44_state_machine R215, R209, 10_state R31); the other commands keep or establish it,
`CREATE_OVR` when `INITCTR <= 0x7FFE`. Under duty 2 of the time source every command leaves the readings
still to come not before `LASTUSE` (60_exceptions R286 clause 2). An inference the spec marks as its own
in R215; the listing of the reading is log 3. -/
def Obligations.EmitOtpKeepsWellFormed : Prop :=
  ∀ s t : State,
    (∀ (now : Time) (ts : List Time), s.agents.times = now :: ts →
      s.token.lastUse.toNat ≤ now.toNat → exec .emitOtp s = .next t →
      s.token.lastUse.toNat ≤ t.token.lastUse.toNat ∧ (s.WF → t.WF)) ∧
    (s.Inv → s.flight.held = true → s.advance = .next t →
      t.token.lastUse = s.token.lastUse ∧ (s.WF → t.WF)) ∧
    (∀ i : Instr, i ≠ .recLoad → i ≠ .createOvr → i ≠ .emitOtp → exec i s = .next t → s.WF → t.WF) ∧
    (s.ovr.initCtr.toNat ≤ 0x7FFE → exec .createOvr s = .next t → t.err = 0 → t.WF) ∧
    (∀ n : Nat, s.clockInOrder (n + 1) → ((∃ i, exec i s = .next t) ∨ runsEmit s t) →
      t.clockInOrder n)

/-- "Counter never exceeds 0x7FFF" (44_state_machine R203): no command that runs or is resumed brings a
Counter at or below the ceiling above it, but `CREATE_OVR` and `REC_LOAD`, which take one from outside;
the local Counter of an emission in flight stays below the ceiling too. -/
def Obligations.CounterCeilingHolds : Prop :=
  ∀ s t : State, s.token.counter.toNat ≤ 0x7FFF →
    (∀ st l, s.flight = .emit st l → l.ctr.toNat ≤ 0x7FFF) →
    s.flight ≠ .latched 0x51 → s.flight ≠ .latched 0x60 →
    (s.advance = .next t ∨ s.tick = .next t) →
    t.token.counter.toNat ≤ 0x7FFF ∧ ∀ st l, t.flight = .emit st l → l.ctr.toNat ≤ 0x7FFF

/-- What an external validator does with an OTP that `EMIT_OTP` produced, at once or after its wait: both
tests pass and the parsed block holds the Private ID, Counter and Session of that emission
(43_block_codec R181). An inference the spec marks as its own: "both tests pass" (and log 2). -/
def Obligations.ValidatorAcceptsEmission : Prop :=
  ∀ s t : State, s.dout.wf →
    (exec .emitOtp s = .next t ∨ s.flight.held = true ∧ s.advance = .next t) →
    t.completed → t.err = 0 →
    ∃ (pub : List Byte) (ct : List Byte) (img : Bytes 16),
      mhxDec (t.dout.readBytes 12) = .ok pub ∧ pub = s.token.pubId.toList ∧
      mhxDec ((t.dout.readBytes 44).drop 12) = .ok ct ∧
      cipherDec s.token.key.toList ct = .ok img ∧
      crc16 img.toList = 0xF0B8 ∧
      (parseBlock img).uid = s.token.privId ∧
      (parseBlock img).ctr = t.token.counter ∧ (parseBlock img).sess = t.token.session

/-- `REG_EXPORT` (44_state_machine R220, 30_encoding R96). -/
def Obligations.RegExportResult : Prop :=
  decode [0x53] = .ok (.regExport, []) ∧ ∀ s : State, s.dout.wf →
    (s.status.token = true →
      ∃ t, exec .regExport s = .next t ∧ t.doutLen = 60 ∧ answers s t id
        (mhxEnc s.token.pubId.toList ++ chars [',', ' '] ++ hexEnc s.token.privId.toList ++
          chars [',', ' '] ++ hexEnc s.token.key.toList)) ∧
    (s.status.token = false → exec .regExport s = .next (s.endedErr .noToken s.agents))

/-! ## Record -/

/-- Decimal text (45_record R232, R233): the digits in base ten; what is written is read back when it
fits, leading zeros allowed; a value that does not fit, an empty text and a byte that is no digit are
`BadRecord`. -/
def Obligations.DecimalRoundTrip : Prop :=
  (∀ v : Nat, decText v = chars (Nat.toDigits 10 v)) ∧
  (∀ n v k : Nat, v < 2 ^ n →
    parseDec n (List.replicate k 0x30 ++ decText v) = .ok (BitVec.ofNat n v)) ∧
  (∀ n v k : Nat, 2 ^ n ≤ v →
    parseDec n (List.replicate k 0x30 ++ decText v) = .error .badRecord) ∧
  (∀ v : Nat, (decText v).head? = some 0x30 → v = 0) ∧
  (∀ n t, (t = [] ∨ ∃ b ∈ t, b.toNat < 0x30 ∨ 0x39 < b.toNat) →
    parseDec n t = .error .badRecord)

/-- `REC_SAVE` (45_record R242, R234, R244): the eight lines in `DOUT`, `MUSTP` cleared, no token register
changed; `NoToken` without a token. -/
def Obligations.RecSaveResult : Prop :=
  decode [0x61] = .ok (.recSave, []) ∧ ∀ s : State, s.dout.wf →
    (s.status.token = true →
      ∃ t, exec .recSave s = .next t ∧
        answers s t (fun f => { f with mustp := false }) (recordText s.token)) ∧
    (s.status.token = false → exec .recSave s = .next (s.endedErr .noToken s.agents))

/-- The size of a saved record (45_record R243). An inference the spec marks as its own: "The longest
record `REC_SAVE` can write has 199 bytes". -/
def Obligations.RecordSizeBounds : Prop :=
  ∀ t : Token, 146 ≤ t.render.length ∧ t.render.length ≤ 199

/-- How the lines of a record are read (45_record R235, R236): the text is cut at newlines; a line without a
colon and a line with an unknown key are skipped; a known key, blanks around it and its value removed,
replaces its value; the first failing line decides; the parse starts from all-zero values. -/
def Obligations.RecordLinesAreRead : Prop :=
  (∀ (line text : List Byte), (0x0A : Byte) ∉ line →
    splitLines (line ++ [0x0A] ++ text) = line :: splitLines text ∧ splitLines line = [line]) ∧
  (∀ (line : List Byte) (t : Token), (0x3A : Byte) ∉ line → loadLine line t = .ok t) ∧
  (∀ (b1 b2 b3 b4 name val : List Byte) (t : Token),
    (∀ b ∈ b1 ++ b2 ++ b3 ++ b4, b = 0x20 ∨ b = 0x09 ∨ b = 0x0D) → (0x3A : Byte) ∉ name →
    (∀ x ∈ [name, val], ∀ b, x.head? = some b ∨ x.getLast? = some b →
      b ≠ 0x20 ∧ b ≠ 0x09 ∧ b ≠ 0x0D) →
    (∀ k : RecordKey, name = k.name →
      loadLine (b1 ++ name ++ b2 ++ [0x3A] ++ b3 ++ val ++ b4) t = loadValue k val t) ∧
    ((∀ k : RecordKey, name ≠ k.name) →
      loadLine (b1 ++ name ++ b2 ++ [0x3A] ++ b3 ++ val ++ b4) t = .ok t)) ∧
  (∀ (l : List Byte) (ls : List (List Byte)) (t u : Token) (e : CmdError),
    (loadLine l t = .ok u → loadLines (l :: ls) t = loadLines ls u) ∧
    (loadLine l t = .error e → loadLines (l :: ls) t = .error e) ∧ loadLines [] t = .ok t) ∧
  ∀ text, parseRecord text = loadLines (splitLines text) State.reset.token

/-- The value of each key and how it is converted (45_record R231, R237): a byte value by its codec and
its size, a number by `ParseDec` at its width, with the errors of the table. -/
def Obligations.RecordValuesConvert : Prop :=
  (∀ t : Token, RecordKey.all.map RecordKey.name = (recordFields t).map fun kv => chars kv.1) ∧
  ∀ (val : List Byte) (t : Token),
    convertsBytes 6 (mhxDec val) (loadValue .publicId val t) (fun v => { t with pubId := v }) ∧
    convertsBytes 6 (hexDec val) (loadValue .privateId val t) (fun v => { t with privId := v }) ∧
    convertsBytes 16 (hexDec val) (loadValue .aesKey val t) (fun v => { t with key := v }) ∧
    convertsNumber (parseDec 16 val) (loadValue .counter val t) (fun v => { t with counter := v }) ∧
    convertsNumber (parseDec 8 val) (loadValue .session val t) (fun v => { t with session := v }) ∧
    convertsNumber (parseDec 64 val) (loadValue .created val t) (fun v => { t with created := v }) ∧
    convertsNumber (parseDec 64 val) (loadValue .lastuse val t) (fun v => { t with lastUse := v }) ∧
    convertsNumber (parseDec 32 val) (loadValue .ponrand val t) (fun v => { t with ponRand := v })

/-- `REC_LOAD` (45_record R238, R239): the parsed token when its `lastuse` is not above the reading, else
`ClockRollback`; a parse error ends it with that error, the time source not asked; `BadOperand` beyond
the buffer; on any error nothing is committed. The listing of the reading is the model's choice (logs 3,
12). -/
def Obligations.RecLoadResult : Prop :=
  decode [0x60] = .ok (.recLoad, []) ∧ ∀ s : State,
    (s.dinLen.toNat ≤ Config.bufCap →
      (∀ (u : Token) (now : Time) (ts : List Time),
        parseRecord ((List.range s.dinLen.toNat).map s.din.read) = .ok u →
        s.agents.times = now :: ts →
        (u.lastUse.toNat ≤ now.toNat →
          exec .recLoad s = .next ({ s with
            token := u
            agents := { s.agents with times := ts } }.endedOk
              (fun f => { f with token := true, mustp := false }))) ∧
        (now.toNat < u.lastUse.toNat →
          exec .recLoad s = .next (s.endedErr .clockRollback { s.agents with times := ts }))) ∧
      (∀ e, parseRecord ((List.range s.dinLen.toNat).map s.din.read) = .error e →
        exec .recLoad s = .next (s.endedErr e s.agents))) ∧
    (Config.bufCap < s.dinLen.toNat →
      exec .recLoad s = .next (s.endedErr .badOperand s.agents))

/-- Save then load restores all eight token registers, whenever the reading at the load is not before
`LASTUSE` (45_record R241). An inference the spec marks as its own: "restores all eight registers". -/
def Obligations.SaveLoadRoundTrip : Prop :=
  ∀ s : State, s.status.token = true → s.dout.wf →
    ∃ t, exec .recSave s = .next t ∧
      ∀ (s' : State) (now : Time) (ts : List Time), s'.dinLen = t.doutLen →
        s'.din.readBytes t.doutLen.toNat = t.dout.readBytes t.doutLen.toNat →
        s'.agents.times = now :: ts → s.token.lastUse.toNat ≤ now.toNat →
        exec .recLoad s' = .next ({ s' with
          token := s.token
          agents := { s'.agents with times := ts } }.endedOk
            (fun f => { f with token := true, mustp := false }))

/-! ## Errors and control -/

/-- Every command has a next state: it completes without error, or ends by the error entry with one of
the errors its row allows, or is an `EMIT_OTP` held in its wait (60_exceptions R270, R272). R272 is an
inference the spec marks as its own: "Which command can raise which error"; the held state is log 5. -/
def Obligations.CommandsEndByTheTable : Prop :=
  ∀ (i : Instr) (s : State), ∃ t, exec i s = .next t ∧
    (t.completed ∧ t.err = 0 ∧ t.status.errf = false ∨
     (∃ e ∈ errorsOf i, ∃ a, t = s.endedErr e a) ∨
     i = .emitOtp ∧ t.flight.held = true ∧ t.status.wait = true ∧ t.status.busy = true ∧
       t.seq = 0x08 ∧ t.err = 0)

/-- Error entry (60_exceptions R270): a command that ends with an error, an `EMIT_OTP` after its wait
too, leaves every register and buffer as it was; `ERR` takes the code, `ERRF` and `DONE` are set,
`BUSY`, `WAIT` and `SEQ` cleared, `TOKEN` and `MUSTP` kept, nothing is in flight. Which errors are a
command's own is the table of 60_exceptions section 1, an inference the spec marks as its own: "Which
command can raise which error". -/
def Obligations.ErrorEntryKeepsState : Prop :=
  ∀ (i : Instr) (s t : State),
    (exec i s = .next t ∨
      i = .emitOtp ∧ s.flight.held = true ∧ s.status.errf = false ∧ s.advance = .next t) →
    t.status.errf = true →
    (∃ e ∈ errorsOf i, t.err = e.code) ∧
    t = { s with
      status := { busy := false, done := true, errf := true, wait := false,
                  token := s.status.token, mustp := s.status.mustp }
      err := t.err
      seq := 0
      flight := .idle
      agents := t.agents }

/-- Which command writes which token register (10_state R23): only `CREATE`, `CREATE_OVR` and `REC_LOAD`
write the Secret Material and `CREATED`; beside them only `EMIT_OTP` writes the Token State. An inference
the spec marks as its own: "Which command writes which token register". -/
def Obligations.WritersOfTheToken : Prop :=
  ∀ (i : Instr) (s t : State), exec i s = .next t →
    (i ≠ .create → i ≠ .createOvr → i ≠ .recLoad →
      t.token.pubId = s.token.pubId ∧ t.token.privId = s.token.privId ∧
      t.token.key = s.token.key ∧ t.token.created = s.token.created ∧
      (i ≠ .emitOtp → t.token = s.token)) ∧
    t.ovr = s.ovr ∧ t.din = s.din ∧ t.dinLen = s.dinLen ∧ t.kin = s.kin ∧ t.kinLen = s.kinLen ∧
    t.inputs = s.inputs ∧ t.busData = s.busData ∧
    (i ≠ .crc16 → t.crcReg = s.crcReg) ∧
    (i ≠ .blkStamp → i ≠ .blkEmit → t.block = s.block) ∧
    t.block = { s.block with crc := t.block.crc } ∧
    (i ∈ [Instr.crc16, .blkStamp, .create, .createOvr, .recLoad] →
      t.dout = s.dout ∧ t.doutLen = s.doutLen)

/-- No host access and no command but the three that replace the token changes the Secret Material; only
the reset event clears `TOKEN` (60_exceptions R278, 10_state R21, R30). -/
def Obligations.SecretsAndTokenFlagPersist : Prop :=
  ∀ s t : State, step s = .next t → s.inputs.head? ≠ some .reset →
    (s.status.token = true → t.status.token = true) ∧
    (s.flight ≠ .latched 0x50 → s.flight ≠ .latched 0x51 → s.flight ≠ .latched 0x60 →
      t.token.pubId = s.token.pubId ∧ t.token.privId = s.token.privId ∧
      t.token.key = s.token.key)

/-- While a command is in flight no register changes but `STATUS` and `SEQ`: what the host reads is what
the registers held when the command started, and a host write is dropped (20_memory R80, R81). That `ERR`
is 0 from the start on is the model's reading (log 7), the steps in between its form (log 5). -/
def Obligations.BusyGateHolds : Prop :=
  ∀ s t : State, s.Inv → s.status.busy = true → step s = .next t →
    (t.status.busy = true →
      t = { s with status := t.status, seq := t.seq, flight := t.flight, agents := t.agents,
                   inputs := t.inputs, busData := t.busData }) ∧
    (∀ addr n v rest, s.inputs = .write addr n v :: rest → t = { s with inputs := rest })

/-- What the host reads at every listed offset, in any state: a step whose oldest action is the read takes
it off the list and changes nothing but the data register of the bus (20_memory R72, R73, R77). Where the
data goes is the model's choice (log 6), and so is the list of actions (log 4). -/
def Obligations.HostReadsTheMap : Prop :=
  ∀ (s : State) (rest : List HostAct),
    (∀ row ∈ scalarView s,
      step { s with inputs := .read (Config.base + row.1) row.2.1 :: rest } =
        .next { s with inputs := rest, busData := some (BitVec.ofNat 64 row.2.2) }) ∧
    (∀ row ∈ bytesView s, ∀ i < row.2.1,
      step { s with inputs := .read (Config.base + row.1 + i) 1 :: rest } =
        .next { s with inputs := rest, busData := some ((row.2.2 i).setWidth 64) })

/-- What a host write does at every writable offset but `CMD` while no command is in flight, and that a
write to a read-only row is dropped: a step whose oldest action is the write performs it and takes it off
the list (20_memory R73, R77, 10_state R21, R22). The list of actions is the model's (log 4). -/
def Obligations.HostWritesTheMap : Prop :=
  ∀ (s : State) (v : BitVec 64) (rest : List HostAct), s.status.busy = false →
    (∀ row ∈ scalarWrites s v,
      step { s with inputs := .write (Config.base + row.1) row.2.1 v :: rest } =
        .next { row.2.2 with inputs := rest }) ∧
    (∀ i, ∀ row ∈ byteWrites s i (v.setWidth 8), i < row.2.1 →
      step { s with inputs := .write (Config.base + row.1 + i) 1 v :: rest } =
        .next { row.2.2 with inputs := rest }) ∧
    (∀ row ∈ readOnlyRows, ∀ i < row.2.2,
      step { s with inputs := .write (Config.base + row.1 + i * row.2.1) row.2.1 v :: rest } =
        .next { s with inputs := rest })

/-- Every other access of the host, as a step: an aligned access that touches no offset a row lists reads 0
and drops writes (20_memory R73; for more than one byte log 9); an address outside the register space
faults (R60, log 10); an access that touches a row and is not one whole scalar or one byte of an array,
and one of another size or alignment, is refused (R70, 93 U14), a write also while `BUSY` is 1 (log 11). -/
def Obligations.OtherBusAccesses : Prop :=
  ∀ (s : State) (v : BitVec 64) (rest : List HostAct),
    (∀ off n, off < 0x1000 + 3 * Config.bufCap → n ∈ [1, 2, 4, 8] → off % n = 0 →
      ¬ meetsRow s off n →
      step { s with inputs := .read (Config.base + off) n :: rest } =
        .next { s with inputs := rest, busData := some 0 } ∧
      step { s with inputs := .write (Config.base + off) n v :: rest } =
        .next { s with inputs := rest }) ∧
    (∀ addr n, (addr < Config.base ∨ Config.base + 0x1000 + 3 * Config.bufCap ≤ addr) →
      step { s with inputs := .read addr n :: rest } = .fault .outsideRegisterSpace ∧
      step { s with inputs := .write addr n v :: rest } = .fault .outsideRegisterSpace) ∧
    (∀ off n, off < 0x1000 + 3 * Config.bufCap →
      (meetsRow s off n ∧ (∀ row ∈ scalarView s, ¬ (off = row.1 ∧ n = row.2.1)) ∧
          (n = 1 → ∀ row ∈ bytesView s, ¬ (row.1 ≤ off ∧ off < row.1 + row.2.1)) ∨
        n ∉ [1, 2, 4, 8] ∨ off % n ≠ 0) →
      step { s with inputs := .read (Config.base + off) n :: rest } = .refused .undefinedAccess ∧
      step { s with inputs := .write (Config.base + off) n v :: rest } = .refused .undefinedAccess)

/-- The seven steps of Emit OTP, one at a time, end where the command run at once ends (20_memory R82):
for every taken `EMIT_OTP` some number of ticks, at most eight, gives the same state. The ticks are the
model's form (log 5). -/
def Obligations.TicksReachTheRun : Prop :=
  ∀ s : State, s.flight = .latched 0x52 → ∃ n ≤ 8, s.ticks n = s.advance

/-- The sequencer's steps ascend (10_state R33, 44_state_machine R213): a tick of an `EMIT_OTP` in flight
goes to a successor stage with its `SEQ` and changes no register but `STATUS` and `SEQ`, or ends the
command: with success at the last step only, or with an error that its step can raise; the wait is left
only by a reading. The ticks are the model's form (log 5). -/
def Obligations.SequencerStepsAscend : Prop :=
  ∀ (s t : State) (st : EmitStage) (l : EmitLocals), s.flight = .emit st l → s.seq = st.seq →
    s.tick = .next t →
    (st = .finish ∧ t.completed ∧ t.err = s.err ∧ t.status.errf = s.status.errf) ∨
    (∃ e, (st, e) ∈ stageErrors ∧ t = s.endedErr e t.agents) ∨
    ∃ st' l', t.flight = .emit st' l' ∧ (st, st') ∈ stageSteps ∧ t.seq = st'.seq ∧
      t.status.wait = (if st' = .hold then (if st = .hold then s.status.wait else true)
        else if st = .hold then false else s.status.wait) ∧
      t = { s with status := t.status, seq := t.seq, flight := t.flight, agents := t.agents }
end

