-- ==== Sys2Proof/Laws/Config.lean ====
section
/-! SUPPORT. The bounds of `BUF_CAP` and of the cipher that the spec states and every proof may use. -/

namespace Sys2Proof

/-- "at least 256" (00_scope R9). -/
theorem Config.bufCap_ge : 256 ≤ Config.bufCap := Nat.le_add_left _ _

/-- "a multiple of 4" (00_scope R9). -/
theorem Config.bufCap_mod : Config.bufCap % 4 = 0 := by
  unfold Config.bufCap
  generalize Config.bufUnits.val = n
  omega

/-- The length of a result fits `DOUT_LEN` (log 1). -/
theorem Config.bufCap_fits : 2 * Config.bufCap < 2 ^ 32 := by
  have h : Config.bufUnits.val < 536870848 := Config.bufUnits.isLt
  unfold Config.bufCap
  generalize Config.bufUnits.val = n at h
  omega

/-- `BASE` is a multiple of 8 (20_memory R70). -/
theorem Config.base_mod : Config.base % 8 = 0 := Nat.mul_mod_right _ _

/-- Decryption undoes encryption under the same key (42_cipher_adapter R155 clause 3). -/
@[simp] theorem Config.Dc_E (k b : Bytes 16) : Config.Dc k (Config.E k b) = b :=
  (Config.cipher k).symm_apply_apply b

/-- Encryption undoes decryption under the same key (42_cipher_adapter R155 clause 3). -/
@[simp] theorem Config.E_Dc (k b : Bytes 16) : Config.E k (Config.Dc k b) = b :=
  (Config.cipher k).apply_symm_apply b

end Sys2Proof
end

