-- ==== Sys2Proof/Laws/Ops.lean ====
section
/-! SUPPORT. For each shared operation, everything it can do. -/

namespace Sys2Proof.Machine

/-! ### Operand checks -/

theorem State.withDin_cases (s : State) (k : List Byte → State → State) :
    (Config.bufCap < s.dinLen.toNat ∧ s.withDin k = s.raise .badOperand) ∨
    (s.dinLen.toNat ≤ Config.bufCap ∧ s.withDin k = k s.dinOperand s) := by
  unfold withDin
  split <;> rename_i h
  · exact .inl ⟨h, rfl⟩
  · exact .inr ⟨Nat.le_of_not_lt h, rfl⟩

theorem State.withKin_cases (s : State) (k : List Byte → State → State) :
    (32 < s.kinLen.toNat ∧ s.withKin k = s.raise .badOperand) ∨
    (s.kinLen.toNat ≤ 32 ∧ s.withKin k = k s.kinOperand s) := by
  unfold withKin
  split <;> rename_i h
  · exact .inl ⟨h, rfl⟩
  · exact .inr ⟨Nat.le_of_not_lt h, rfl⟩

theorem State.withToken_cases (s : State) (k : State → State) :
    (s.status.token = false ∧ s.withToken k = s.raise .noToken) ∨
    (s.status.token = true ∧ s.withToken k = k s) := by
  unfold withToken
  cases h : s.status.token
  · exact .inl ⟨rfl, by simp⟩
  · exact .inr ⟨rfl, by simp⟩

theorem State.finishWith_cases {α : Type} (r : Except CmdError α) (f : α → State → State)
    (s : State) :
    (∃ v, r = .ok v ∧ s.finishWith r f = (f v s).complete) ∨
    (∃ e, r = .error e ∧ s.finishWith r f = s.raise e) := by
  cases r with
  | ok v => exact .inl ⟨v, rfl, rfl⟩
  | error e => exact .inr ⟨e, rfl, rfl⟩

/-! ### The external agents -/

theorem Agents.now_listed {a : Agents} {t : Time} {ts : List Time} (h : a.times = t :: ts) :
    a.now = (t, { a with times := ts }) := by
  simp [now, h]

/-- `Now()` answers the first reading to come. -/
theorem Agents.reading_zero (a : Agents) : a.reading 0 = a.now.1 := by
  unfold reading now
  cases a.times <;> simp

/-- After `Now()` each reading to come is one nearer. -/
theorem Agents.now_reading (a : Agents) (k : Nat) : a.now.2.reading k = a.reading (k + 1) := by
  unfold reading now
  cases h : a.times with
  | nil => simp [Nat.add_assoc, Nat.add_comm 1 k]
  | cons t ts => simp

/-- The readings to come are those listed, then the free values. -/
theorem Agents.reading_listed {a : Agents} {t : Time} {ts : List Time} (h : a.times = t :: ts) :
    a.reading 0 = t := by
  simp [reading, h]

theorem Agents.answer_listed {a : Agents} {d : Option (BitVec 128)}
    {ds : List (Option (BitVec 128))} (h : a.draws = d :: ds) :
    a.answer = (d, { a with draws := ds }) := by
  simp [answer, h]

theorem State.withDraw_cases (n : Nat) (s : State) (k : BitVec n → State → State) :
    (∃ v, s.agents.answer.1 = some v ∧
      s.withDraw n k = k (v.setWidth n) { s with agents := s.agents.answer.2 }) ∨
    (s.agents.answer.1 = none ∧
      s.withDraw n k = State.raise .randomSourceFailure { s with agents := s.agents.answer.2 }) := by
  unfold withDraw
  cases h : s.agents.answer.1 with
  | none => exact .inr ⟨rfl, rfl⟩
  | some v => exact .inl ⟨v, rfl, rfl⟩

theorem State.withDraw_listed {n : Nat} {s : State} {k : BitVec n → State → State}
    {v : BitVec 128} {ds : List (Option (BitVec 128))} (h : s.agents.draws = some v :: ds) :
    s.withDraw n k = k (v.setWidth n) { s with agents := { s.agents with draws := ds } } := by
  simp [withDraw, Agents.answer_listed h]

theorem State.withDraw_fails {n : Nat} {s : State} {k : BitVec n → State → State}
    {ds : List (Option (BitVec 128))} (h : s.agents.draws = none :: ds) :
    s.withDraw n k =
      State.raise .randomSourceFailure { s with agents := { s.agents with draws := ds } } := by
  simp [withDraw, Agents.answer_listed h]

theorem State.withNow_listed {s : State} {k : Time → State → State} {t : Time} {ts : List Time}
    (h : s.agents.times = t :: ts) :
    s.withNow k = k t { s with agents := { s.agents with times := ts } } := by
  simp [withNow, Agents.now_listed h]

@[simp] theorem State.withBytes_supplied (n : Nat) (b : Bytes n) (s : State)
    (k : Bytes n → State → State) : s.withBytes n (some b) k = k b s := rfl

@[simp] theorem State.withBytes_drawn (n : Nat) (s : State) (k : Bytes n → State → State) :
    s.withBytes n none k = s.withDraw (8 * n) fun v s => k (bytesOfDraw n v) s := rfl

/-! ### Register files and lists -/

@[simp] theorem toBytes_toList {n : Nat} (v : Bytes n) : toBytes n v.toList = some v := by
  rcases v with ⟨⟨l⟩, rfl⟩
  simp [toBytes]

theorem toBytes_of_length {n : Nat} {l : List Byte} (h : l.length = n) :
    ∃ v : Bytes n, toBytes n l = some v ∧ v.toList = l := by
  exact ⟨⟨l.toArray, by simpa using h⟩, by simp [toBytes, h], by simp⟩

theorem toBytes_of_length_ne {n : Nat} {l : List Byte} (h : l.length ≠ n) : toBytes n l = none := by
  simp [toBytes, h]

/-- The adapter's answer: the cipher on two sequences of 16 bytes, `InvalidLength` on any other
lengths. -/
theorem cipherCall_cases (f : Bytes 16 → Bytes 16 → Bytes 16) (key block : List Byte) :
    (∃ k b : Bytes 16, key = k.toList ∧ block = b.toList ∧ cipherCall f key block = .ok (f k b)) ∨
    ((key.length ≠ 16 ∨ block.length ≠ 16) ∧ cipherCall f key block = .error .invalidLength) := by
  unfold cipherCall
  by_cases hk : key.length = 16
  · obtain ⟨k, hk1, hk2⟩ := toBytes_of_length hk
    by_cases hb : block.length = 16
    · obtain ⟨b, hb1, hb2⟩ := toBytes_of_length hb
      exact .inl ⟨k, b, hk2.symm, hb2.symm, by simp [hk1, hb1]⟩
    · exact .inr ⟨.inr hb, by simp [hk1, toBytes_of_length_ne hb]⟩
  · exact .inr ⟨.inl hk, by simp [toBytes_of_length_ne hk]⟩

/-- With a key of 16 bytes `Emit` answers the stamped checksum and the encoded cipher text. -/
theorem emitBlock_key (k : Bytes 16) (f : Block) :
    emitBlock k.toList f = .ok (stamp f, mhxEnc (Config.E k (serialize f.stamped)).toList) := by
  simp [emitBlock, cipherEnc, cipherCall]

/-- With a key of any other length `Emit` answers `InvalidLength`. -/
theorem emitBlock_wrong_key {key : List Byte} (h : key.length ≠ 16) (f : Block) :
    emitBlock key f = .error .invalidLength := by
  simp [emitBlock, cipherEnc, cipherCall, toBytes_of_length_ne h]

/-! ### One move of `EMIT_OTP` at each stage -/

@[simp] theorem State.emitMove_advance (l : EmitLocals) (s : State) :
    (s.toStage .advance l).emitMove = (s.toStage .advance l).emitAdvance l := rfl
@[simp] theorem State.emitMove_clock (l : EmitLocals) (s : State) :
    (s.toStage .clock l).emitMove = (s.toStage .clock l).emitClock l := rfl
@[simp] theorem State.emitMove_collide (l : EmitLocals) (s : State) :
    (s.toStage .collide l).emitMove = (s.toStage .collide l).emitCollide l := rfl
@[simp] theorem State.emitMove_hold (l : EmitLocals) (s : State) :
    (s.toStage .hold l).emitMove = s.toStage .hold l := rfl
@[simp] theorem State.emitMove_collideEnd (l : EmitLocals) (s : State) :
    (s.toStage .collideEnd l).emitMove = (s.toStage .collideEnd l).emitCollideEnd l := rfl
@[simp] theorem State.emitMove_stamp (l : EmitLocals) (s : State) :
    (s.toStage .stamp l).emitMove = (s.toStage .stamp l).emitStamp l := rfl
@[simp] theorem State.emitMove_random (l : EmitLocals) (s : State) :
    (s.toStage .random l).emitMove = (s.toStage .random l).emitRandom l := rfl
@[simp] theorem State.emitMove_build (l : EmitLocals) (s : State) :
    (s.toStage .build l).emitMove = (s.toStage .build l).emitBuild l := rfl
@[simp] theorem State.emitMove_finish (l : EmitLocals) (s : State) :
    (s.toStage .finish l).emitMove = (s.toStage .finish l).emitFinish l := rfl

/-- A block with nothing in flight does not move. -/
theorem State.emitMove_idle {s : State} (h : s.flight = .idle) : s.emitMove = s := by
  simp [emitMove, h]

theorem State.emitMoves_idle {s : State} (h : s.flight = .idle) (n : Nat) : s.emitMoves n = s := by
  induction n with
  | zero => rfl
  | succ n ih => rw [emitMoves, emitMove_idle h, ih]

/-- A command held in its wait does not move. -/
theorem State.emitMoves_hold {s : State} {l : EmitLocals} (h : s.flight = .emit .hold l) (n : Nat) :
    s.emitMoves n = s := by
  induction n with
  | zero => rfl
  | succ n ih => rw [emitMoves, show s.emitMove = s by simp [emitMove, h], ih]

/-! ### Create -/

/-- The state in which the random source's next answers are `ds`. -/
abbrev State.drawsLeft (s : State) (ds : List (Option (BitVec 128))) : State :=
  { s with agents := { s.agents with draws := ds } }

theorem State.drawsLeft_self {s : State} {ds : List (Option (BitVec 128))}
    (h : s.agents.draws = ds) : s.drawsLeft ds = s := by
  subst h; rfl

/-- Where a byte field of a new token comes from: supplied, with no draw, or drawn. -/
def FieldSource {n : Nat} (supplied : Option (Bytes n)) (drawn : BitVec 128 → Bytes n)
    (used : List (Option (BitVec 128))) (b : Bytes n) : Prop :=
  (supplied = some b ∧ used = []) ∨ (supplied = none ∧ ∃ a, used = [some a] ∧ b = drawn a)

theorem State.withBytes_source {n : Nat} {supplied : Option (Bytes n)} {s : State}
    {k : Bytes n → State → State} {used ds : List (Option (BitVec 128))} {b : Bytes n}
    (h : FieldSource supplied (fun a => bytesOfDraw n (a.setWidth (8 * n))) used b)
    (hd : s.agents.draws = used ++ ds) : s.withBytes n supplied k = k b (s.drawsLeft ds) := by
  rcases h with ⟨rfl, rfl⟩ | ⟨rfl, a, rfl, rfl⟩
  · rw [withBytes_supplied, drawsLeft_self (ds := ds) hd]
  · rw [withBytes_drawn, withDraw_listed (ds := ds) hd]

theorem State.withPubId_source {supplied : Option (Bytes 6)} {s : State}
    {k : Bytes 6 → State → State} {used ds : List (Option (BitVec 128))} {b : Bytes 6}
    (h : FieldSource supplied (fun a => prefixed (bytesOfDraw 4 (a.setWidth 32))) used b)
    (hd : s.agents.draws = used ++ ds) : s.withPubId supplied k = k b (s.drawsLeft ds) := by
  rcases h with ⟨rfl, rfl⟩ | ⟨rfl, a, rfl, rfl⟩
  · rw [drawsLeft_self (ds := ds) hd]; rfl
  · rw [withPubId, withBytes_drawn, withDraw_listed (ds := ds) hd]

/-- Create when every draw delivers: the whole of what it does. -/
theorem State.createToken_delivers {s : State} {pub priv : Option (Bytes 6)}
    {key : Option (Bytes 16)} {c : BitVec 16} {now : Time} {ts : List Time} {d : BitVec 128}
    {pubs privs keys ds : List (Option (BitVec 128))} {p q : Bytes 6} {k : Bytes 16}
    (hp : FieldSource pub (fun a => prefixed (bytesOfDraw 4 (a.setWidth 32))) pubs p)
    (hq : FieldSource priv (fun a => bytesOfDraw 6 (a.setWidth (8 * 6))) privs q)
    (hk : FieldSource key (fun a => bytesOfDraw 16 (a.setWidth (8 * 16))) keys k)
    (ht : s.agents.times = now :: ts)
    (hd : s.agents.draws = pubs ++ (privs ++ (keys ++ some d :: ds))) :
    s.createToken pub priv key c =
      { s with
        token := { pubId := p, privId := q, key := k, counter := c, session := 1, created := now,
                   lastUse := now, ponRand := clearNibble (d.setWidth 32) }
        agents := { s.agents with times := ts, draws := ds }
        status := s.status.tokenLoaded }.complete := by
  unfold createToken
  rw [withPubId_source hp hd, withBytes_source hq rfl, withBytes_source hk rfl]
  refine (withNow_listed (t := now) (ts := ts) ?_).trans ?_
  · exact ht
  · refine (withDraw_listed (v := d) (ds := ds) ?_).trans ?_ <;> rfl

/-! ### Taking a code -/

theorem State.accept_cases (v : Byte) (s : State) :
    (∃ i, decodeByte v = .ok i ∧
      s.accept v = { s.begin (startSeq i) with flight := .latched v }) ∨
    (∃ e, decodeByte v = .error e ∧ s.accept v = s.illegalCommand) := by
  unfold accept
  cases h : decodeByte v with
  | ok i => exact .inl ⟨i, rfl, rfl⟩
  | error e => exact .inr ⟨e, rfl, rfl⟩

/-! ### The bus -/

/-- What `busPlace` answers for an address in the register space. -/
theorem busPlace_offset {off n : Nat} (h : off < spaceSize) :
    busPlace (Config.base + off) n =
      match locate off n with
      | some p => .next p
      | none => .refused .undefinedAccess := by
  have inside : ¬(Config.base + off < Config.base ∨ spaceSize ≤ off) := by omega
  cases e : locate off n <;> simp only [busPlace, Nat.add_sub_cancel_left, if_neg inside, e]

end Sys2Proof.Machine
end

