-- ==== Sys2Proof/Laws/State.lean ====
section
/-! SUPPORT. One lemma per field for each update of the state: what the update leaves in that field. -/

namespace Sys2Proof.Machine

/-! ### `begin` -/

@[simp] theorem State.begin_token (q : BitVec 8) (s : State) : (s.begin q).token = s.token := rfl
@[simp] theorem State.begin_block (q : BitVec 8) (s : State) : (s.begin q).block = s.block := rfl
@[simp] theorem State.begin_ovr (q : BitVec 8) (s : State) : (s.begin q).ovr = s.ovr := rfl
@[simp] theorem State.begin_din (q : BitVec 8) (s : State) : (s.begin q).din = s.din := rfl
@[simp] theorem State.begin_dinLen (q : BitVec 8) (s : State) : (s.begin q).dinLen = s.dinLen := rfl
@[simp] theorem State.begin_kin (q : BitVec 8) (s : State) : (s.begin q).kin = s.kin := rfl
@[simp] theorem State.begin_kinLen (q : BitVec 8) (s : State) : (s.begin q).kinLen = s.kinLen := rfl
@[simp] theorem State.begin_dout (q : BitVec 8) (s : State) : (s.begin q).dout = s.dout := rfl
@[simp] theorem State.begin_doutLen (q : BitVec 8) (s : State) : (s.begin q).doutLen = s.doutLen := rfl
@[simp] theorem State.begin_crcReg (q : BitVec 8) (s : State) : (s.begin q).crcReg = s.crcReg := rfl
@[simp] theorem State.begin_status (q : BitVec 8) (s : State) : (s.begin q).status = s.status.started := rfl
@[simp] theorem State.begin_err (q : BitVec 8) (s : State) : (s.begin q).err = 0 := rfl
@[simp] theorem State.begin_seq (q : BitVec 8) (s : State) : (s.begin q).seq = q := rfl
@[simp] theorem State.begin_flight (q : BitVec 8) (s : State) : (s.begin q).flight = s.flight := rfl
@[simp] theorem State.begin_agents (q : BitVec 8) (s : State) : (s.begin q).agents = s.agents := rfl
@[simp] theorem State.begin_inputs (q : BitVec 8) (s : State) : (s.begin q).inputs = s.inputs := rfl
@[simp] theorem State.begin_busData (q : BitVec 8) (s : State) : (s.begin q).busData = s.busData := rfl

/-! ### `complete` -/

@[simp] theorem State.complete_token (s : State) : (s.complete).token = s.token := rfl
@[simp] theorem State.complete_block (s : State) : (s.complete).block = s.block := rfl
@[simp] theorem State.complete_ovr (s : State) : (s.complete).ovr = s.ovr := rfl
@[simp] theorem State.complete_din (s : State) : (s.complete).din = s.din := rfl
@[simp] theorem State.complete_dinLen (s : State) : (s.complete).dinLen = s.dinLen := rfl
@[simp] theorem State.complete_kin (s : State) : (s.complete).kin = s.kin := rfl
@[simp] theorem State.complete_kinLen (s : State) : (s.complete).kinLen = s.kinLen := rfl
@[simp] theorem State.complete_dout (s : State) : (s.complete).dout = s.dout := rfl
@[simp] theorem State.complete_doutLen (s : State) : (s.complete).doutLen = s.doutLen := rfl
@[simp] theorem State.complete_crcReg (s : State) : (s.complete).crcReg = s.crcReg := rfl
@[simp] theorem State.complete_status (s : State) : (s.complete).status = s.status.succeeded := rfl
@[simp] theorem State.complete_err (s : State) : (s.complete).err = s.err := rfl
@[simp] theorem State.complete_seq (s : State) : (s.complete).seq = 0 := rfl
@[simp] theorem State.complete_flight (s : State) : (s.complete).flight = .idle := rfl
@[simp] theorem State.complete_agents (s : State) : (s.complete).agents = s.agents := rfl
@[simp] theorem State.complete_inputs (s : State) : (s.complete).inputs = s.inputs := rfl
@[simp] theorem State.complete_busData (s : State) : (s.complete).busData = s.busData := rfl

/-! ### `raise` -/

@[simp] theorem State.raise_token (e : CmdError) (s : State) : (s.raise e).token = s.token := rfl
@[simp] theorem State.raise_block (e : CmdError) (s : State) : (s.raise e).block = s.block := rfl
@[simp] theorem State.raise_ovr (e : CmdError) (s : State) : (s.raise e).ovr = s.ovr := rfl
@[simp] theorem State.raise_din (e : CmdError) (s : State) : (s.raise e).din = s.din := rfl
@[simp] theorem State.raise_dinLen (e : CmdError) (s : State) : (s.raise e).dinLen = s.dinLen := rfl
@[simp] theorem State.raise_kin (e : CmdError) (s : State) : (s.raise e).kin = s.kin := rfl
@[simp] theorem State.raise_kinLen (e : CmdError) (s : State) : (s.raise e).kinLen = s.kinLen := rfl
@[simp] theorem State.raise_dout (e : CmdError) (s : State) : (s.raise e).dout = s.dout := rfl
@[simp] theorem State.raise_doutLen (e : CmdError) (s : State) : (s.raise e).doutLen = s.doutLen := rfl
@[simp] theorem State.raise_crcReg (e : CmdError) (s : State) : (s.raise e).crcReg = s.crcReg := rfl
@[simp] theorem State.raise_status (e : CmdError) (s : State) : (s.raise e).status = s.status.failed := rfl
@[simp] theorem State.raise_err (e : CmdError) (s : State) : (s.raise e).err = e.code := rfl
@[simp] theorem State.raise_seq (e : CmdError) (s : State) : (s.raise e).seq = 0 := rfl
@[simp] theorem State.raise_flight (e : CmdError) (s : State) : (s.raise e).flight = .idle := rfl
@[simp] theorem State.raise_agents (e : CmdError) (s : State) : (s.raise e).agents = s.agents := rfl
@[simp] theorem State.raise_inputs (e : CmdError) (s : State) : (s.raise e).inputs = s.inputs := rfl
@[simp] theorem State.raise_busData (e : CmdError) (s : State) : (s.raise e).busData = s.busData := rfl

/-! ### `putResult` -/

@[simp] theorem State.putResult_token (bs : List Byte) (s : State) : (s.putResult bs).token = s.token := rfl
@[simp] theorem State.putResult_block (bs : List Byte) (s : State) : (s.putResult bs).block = s.block := rfl
@[simp] theorem State.putResult_ovr (bs : List Byte) (s : State) : (s.putResult bs).ovr = s.ovr := rfl
@[simp] theorem State.putResult_din (bs : List Byte) (s : State) : (s.putResult bs).din = s.din := rfl
@[simp] theorem State.putResult_dinLen (bs : List Byte) (s : State) : (s.putResult bs).dinLen = s.dinLen := rfl
@[simp] theorem State.putResult_kin (bs : List Byte) (s : State) : (s.putResult bs).kin = s.kin := rfl
@[simp] theorem State.putResult_kinLen (bs : List Byte) (s : State) : (s.putResult bs).kinLen = s.kinLen := rfl
@[simp] theorem State.putResult_dout (bs : List Byte) (s : State) : (s.putResult bs).dout = s.dout.writeBytes 0 bs := rfl
@[simp] theorem State.putResult_doutLen (bs : List Byte) (s : State) : (s.putResult bs).doutLen = BitVec.ofNat 32 bs.length := rfl
@[simp] theorem State.putResult_crcReg (bs : List Byte) (s : State) : (s.putResult bs).crcReg = s.crcReg := rfl
@[simp] theorem State.putResult_status (bs : List Byte) (s : State) : (s.putResult bs).status = s.status := rfl
@[simp] theorem State.putResult_err (bs : List Byte) (s : State) : (s.putResult bs).err = s.err := rfl
@[simp] theorem State.putResult_seq (bs : List Byte) (s : State) : (s.putResult bs).seq = s.seq := rfl
@[simp] theorem State.putResult_flight (bs : List Byte) (s : State) : (s.putResult bs).flight = s.flight := rfl
@[simp] theorem State.putResult_agents (bs : List Byte) (s : State) : (s.putResult bs).agents = s.agents := rfl
@[simp] theorem State.putResult_inputs (bs : List Byte) (s : State) : (s.putResult bs).inputs = s.inputs := rfl
@[simp] theorem State.putResult_busData (bs : List Byte) (s : State) : (s.putResult bs).busData = s.busData := rfl

/-! ### `toStage` -/

@[simp] theorem State.toStage_token (st : EmitStage) (l : EmitLocals) (s : State) : (s.toStage st l).token = s.token := rfl
@[simp] theorem State.toStage_block (st : EmitStage) (l : EmitLocals) (s : State) : (s.toStage st l).block = s.block := rfl
@[simp] theorem State.toStage_ovr (st : EmitStage) (l : EmitLocals) (s : State) : (s.toStage st l).ovr = s.ovr := rfl
@[simp] theorem State.toStage_din (st : EmitStage) (l : EmitLocals) (s : State) : (s.toStage st l).din = s.din := rfl
@[simp] theorem State.toStage_dinLen (st : EmitStage) (l : EmitLocals) (s : State) : (s.toStage st l).dinLen = s.dinLen := rfl
@[simp] theorem State.toStage_kin (st : EmitStage) (l : EmitLocals) (s : State) : (s.toStage st l).kin = s.kin := rfl
@[simp] theorem State.toStage_kinLen (st : EmitStage) (l : EmitLocals) (s : State) : (s.toStage st l).kinLen = s.kinLen := rfl
@[simp] theorem State.toStage_dout (st : EmitStage) (l : EmitLocals) (s : State) : (s.toStage st l).dout = s.dout := rfl
@[simp] theorem State.toStage_doutLen (st : EmitStage) (l : EmitLocals) (s : State) : (s.toStage st l).doutLen = s.doutLen := rfl
@[simp] theorem State.toStage_crcReg (st : EmitStage) (l : EmitLocals) (s : State) : (s.toStage st l).crcReg = s.crcReg := rfl
@[simp] theorem State.toStage_status (st : EmitStage) (l : EmitLocals) (s : State) : (s.toStage st l).status = s.status := rfl
@[simp] theorem State.toStage_err (st : EmitStage) (l : EmitLocals) (s : State) : (s.toStage st l).err = s.err := rfl
@[simp] theorem State.toStage_seq (st : EmitStage) (l : EmitLocals) (s : State) : (s.toStage st l).seq = st.seq := rfl
@[simp] theorem State.toStage_flight (st : EmitStage) (l : EmitLocals) (s : State) : (s.toStage st l).flight = .emit st l := rfl
@[simp] theorem State.toStage_agents (st : EmitStage) (l : EmitLocals) (s : State) : (s.toStage st l).agents = s.agents := rfl
@[simp] theorem State.toStage_inputs (st : EmitStage) (l : EmitLocals) (s : State) : (s.toStage st l).inputs = s.inputs := rfl
@[simp] theorem State.toStage_busData (st : EmitStage) (l : EmitLocals) (s : State) : (s.toStage st l).busData = s.busData := rfl

/-! ### `illegalCommand` -/

@[simp] theorem State.illegalCommand_token (s : State) : (s.illegalCommand).token = s.token := rfl
@[simp] theorem State.illegalCommand_block (s : State) : (s.illegalCommand).block = s.block := rfl
@[simp] theorem State.illegalCommand_ovr (s : State) : (s.illegalCommand).ovr = s.ovr := rfl
@[simp] theorem State.illegalCommand_din (s : State) : (s.illegalCommand).din = s.din := rfl
@[simp] theorem State.illegalCommand_dinLen (s : State) : (s.illegalCommand).dinLen = s.dinLen := rfl
@[simp] theorem State.illegalCommand_kin (s : State) : (s.illegalCommand).kin = s.kin := rfl
@[simp] theorem State.illegalCommand_kinLen (s : State) : (s.illegalCommand).kinLen = s.kinLen := rfl
@[simp] theorem State.illegalCommand_dout (s : State) : (s.illegalCommand).dout = s.dout := rfl
@[simp] theorem State.illegalCommand_doutLen (s : State) : (s.illegalCommand).doutLen = s.doutLen := rfl
@[simp] theorem State.illegalCommand_crcReg (s : State) : (s.illegalCommand).crcReg = s.crcReg := rfl
@[simp] theorem State.illegalCommand_status (s : State) : (s.illegalCommand).status = s.status.started.failed := rfl
@[simp] theorem State.illegalCommand_err (s : State) : (s.illegalCommand).err = 0x80 := rfl
@[simp] theorem State.illegalCommand_seq (s : State) : (s.illegalCommand).seq = 0 := rfl
@[simp] theorem State.illegalCommand_flight (s : State) : (s.illegalCommand).flight = .idle := rfl
@[simp] theorem State.illegalCommand_agents (s : State) : (s.illegalCommand).agents = s.agents := rfl
@[simp] theorem State.illegalCommand_inputs (s : State) : (s.illegalCommand).inputs = s.inputs := rfl
@[simp] theorem State.illegalCommand_busData (s : State) : (s.illegalCommand).busData = s.busData := rfl

/-! ### `resetEvent` -/

@[simp] theorem State.resetEvent_token (s : State) : (s.resetEvent).token = State.reset.token := rfl
@[simp] theorem State.resetEvent_block (s : State) : (s.resetEvent).block = State.reset.block := rfl
@[simp] theorem State.resetEvent_ovr (s : State) : (s.resetEvent).ovr = State.reset.ovr := rfl
@[simp] theorem State.resetEvent_din (s : State) : (s.resetEvent).din = State.reset.din := rfl
@[simp] theorem State.resetEvent_dinLen (s : State) : (s.resetEvent).dinLen = State.reset.dinLen := rfl
@[simp] theorem State.resetEvent_kin (s : State) : (s.resetEvent).kin = State.reset.kin := rfl
@[simp] theorem State.resetEvent_kinLen (s : State) : (s.resetEvent).kinLen = State.reset.kinLen := rfl
@[simp] theorem State.resetEvent_dout (s : State) : (s.resetEvent).dout = State.reset.dout := rfl
@[simp] theorem State.resetEvent_doutLen (s : State) : (s.resetEvent).doutLen = State.reset.doutLen := rfl
@[simp] theorem State.resetEvent_crcReg (s : State) : (s.resetEvent).crcReg = State.reset.crcReg := rfl
@[simp] theorem State.resetEvent_status (s : State) : (s.resetEvent).status = State.reset.status := rfl
@[simp] theorem State.resetEvent_err (s : State) : (s.resetEvent).err = State.reset.err := rfl
@[simp] theorem State.resetEvent_seq (s : State) : (s.resetEvent).seq = State.reset.seq := rfl
@[simp] theorem State.resetEvent_flight (s : State) : (s.resetEvent).flight = State.reset.flight := rfl
@[simp] theorem State.resetEvent_agents (s : State) : (s.resetEvent).agents = s.agents := rfl
@[simp] theorem State.resetEvent_inputs (s : State) : (s.resetEvent).inputs = s.inputs := rfl
@[simp] theorem State.resetEvent_busData (s : State) : (s.resetEvent).busData = s.busData := rfl

/-! ### `latchWord` -/

@[simp] theorem State.latchWord_token (n w : Nat) (s : State) : (s.latchWord n w).token = s.token := rfl
@[simp] theorem State.latchWord_block (n w : Nat) (s : State) : (s.latchWord n w).block = s.block := rfl
@[simp] theorem State.latchWord_ovr (n w : Nat) (s : State) : (s.latchWord n w).ovr = s.ovr := rfl
@[simp] theorem State.latchWord_din (n w : Nat) (s : State) : (s.latchWord n w).din = s.din := rfl
@[simp] theorem State.latchWord_dinLen (n w : Nat) (s : State) : (s.latchWord n w).dinLen = s.dinLen := rfl
@[simp] theorem State.latchWord_kin (n w : Nat) (s : State) : (s.latchWord n w).kin = s.kin := rfl
@[simp] theorem State.latchWord_kinLen (n w : Nat) (s : State) : (s.latchWord n w).kinLen = s.kinLen := rfl
@[simp] theorem State.latchWord_dout (n w : Nat) (s : State) : (s.latchWord n w).dout = s.dout := rfl
@[simp] theorem State.latchWord_doutLen (n w : Nat) (s : State) : (s.latchWord n w).doutLen = s.doutLen := rfl
@[simp] theorem State.latchWord_crcReg (n w : Nat) (s : State) : (s.latchWord n w).crcReg = s.crcReg := rfl
@[simp] theorem State.latchWord_status (n w : Nat) (s : State) : (s.latchWord n w).status = s.status := rfl
@[simp] theorem State.latchWord_err (n w : Nat) (s : State) : (s.latchWord n w).err = s.err := rfl
@[simp] theorem State.latchWord_seq (n w : Nat) (s : State) : (s.latchWord n w).seq = s.seq := rfl
@[simp] theorem State.latchWord_flight (n w : Nat) (s : State) : (s.latchWord n w).flight = .latched (commandByte n w) := rfl
@[simp] theorem State.latchWord_agents (n w : Nat) (s : State) : (s.latchWord n w).agents = s.agents := rfl
@[simp] theorem State.latchWord_inputs (n w : Nat) (s : State) : (s.latchWord n w).inputs = .run :: s.inputs := rfl
@[simp] theorem State.latchWord_busData (n w : Nat) (s : State) : (s.latchWord n w).busData = s.busData := rfl

/-! ### `endedOk` -/

@[simp] theorem State.endedOk_token (f : Status → Status) (s : State) : (s.endedOk f).token = s.token := rfl
@[simp] theorem State.endedOk_block (f : Status → Status) (s : State) : (s.endedOk f).block = s.block := rfl
@[simp] theorem State.endedOk_ovr (f : Status → Status) (s : State) : (s.endedOk f).ovr = s.ovr := rfl
@[simp] theorem State.endedOk_din (f : Status → Status) (s : State) : (s.endedOk f).din = s.din := rfl
@[simp] theorem State.endedOk_dinLen (f : Status → Status) (s : State) : (s.endedOk f).dinLen = s.dinLen := rfl
@[simp] theorem State.endedOk_kin (f : Status → Status) (s : State) : (s.endedOk f).kin = s.kin := rfl
@[simp] theorem State.endedOk_kinLen (f : Status → Status) (s : State) : (s.endedOk f).kinLen = s.kinLen := rfl
@[simp] theorem State.endedOk_dout (f : Status → Status) (s : State) : (s.endedOk f).dout = s.dout := rfl
@[simp] theorem State.endedOk_doutLen (f : Status → Status) (s : State) : (s.endedOk f).doutLen = s.doutLen := rfl
@[simp] theorem State.endedOk_crcReg (f : Status → Status) (s : State) : (s.endedOk f).crcReg = s.crcReg := rfl
@[simp] theorem State.endedOk_status (f : Status → Status) (s : State) : (s.endedOk f).status = f { s.status with busy := false, done := true, errf := false } := rfl
@[simp] theorem State.endedOk_err (f : Status → Status) (s : State) : (s.endedOk f).err = 0 := rfl
@[simp] theorem State.endedOk_seq (f : Status → Status) (s : State) : (s.endedOk f).seq = 0 := rfl
@[simp] theorem State.endedOk_flight (f : Status → Status) (s : State) : (s.endedOk f).flight = .idle := rfl
@[simp] theorem State.endedOk_agents (f : Status → Status) (s : State) : (s.endedOk f).agents = s.agents := rfl
@[simp] theorem State.endedOk_inputs (f : Status → Status) (s : State) : (s.endedOk f).inputs = s.inputs := rfl
@[simp] theorem State.endedOk_busData (f : Status → Status) (s : State) : (s.endedOk f).busData = s.busData := rfl

/-! ### `endedErr` -/

@[simp] theorem State.endedErr_token (e : CmdError) (a : Agents) (s : State) : (s.endedErr e a).token = s.token := rfl
@[simp] theorem State.endedErr_block (e : CmdError) (a : Agents) (s : State) : (s.endedErr e a).block = s.block := rfl
@[simp] theorem State.endedErr_ovr (e : CmdError) (a : Agents) (s : State) : (s.endedErr e a).ovr = s.ovr := rfl
@[simp] theorem State.endedErr_din (e : CmdError) (a : Agents) (s : State) : (s.endedErr e a).din = s.din := rfl
@[simp] theorem State.endedErr_dinLen (e : CmdError) (a : Agents) (s : State) : (s.endedErr e a).dinLen = s.dinLen := rfl
@[simp] theorem State.endedErr_kin (e : CmdError) (a : Agents) (s : State) : (s.endedErr e a).kin = s.kin := rfl
@[simp] theorem State.endedErr_kinLen (e : CmdError) (a : Agents) (s : State) : (s.endedErr e a).kinLen = s.kinLen := rfl
@[simp] theorem State.endedErr_dout (e : CmdError) (a : Agents) (s : State) : (s.endedErr e a).dout = s.dout := rfl
@[simp] theorem State.endedErr_doutLen (e : CmdError) (a : Agents) (s : State) : (s.endedErr e a).doutLen = s.doutLen := rfl
@[simp] theorem State.endedErr_crcReg (e : CmdError) (a : Agents) (s : State) : (s.endedErr e a).crcReg = s.crcReg := rfl
@[simp] theorem State.endedErr_status (e : CmdError) (a : Agents) (s : State) : (s.endedErr e a).status = { s.status with busy := false, done := true, errf := true, wait := false } := rfl
@[simp] theorem State.endedErr_err (e : CmdError) (a : Agents) (s : State) : (s.endedErr e a).err = e.code := rfl
@[simp] theorem State.endedErr_seq (e : CmdError) (a : Agents) (s : State) : (s.endedErr e a).seq = 0 := rfl
@[simp] theorem State.endedErr_flight (e : CmdError) (a : Agents) (s : State) : (s.endedErr e a).flight = .idle := rfl
@[simp] theorem State.endedErr_agents (e : CmdError) (a : Agents) (s : State) : (s.endedErr e a).agents = a := rfl
@[simp] theorem State.endedErr_inputs (e : CmdError) (a : Agents) (s : State) : (s.endedErr e a).inputs = s.inputs := rfl
@[simp] theorem State.endedErr_busData (e : CmdError) (a : Agents) (s : State) : (s.endedErr e a).busData = s.busData := rfl

/-! ### `Status.started` -/

@[simp] theorem Status.started_busy (f : Status) : f.started.busy = true := rfl
@[simp] theorem Status.started_done (f : Status) : f.started.done = false := rfl
@[simp] theorem Status.started_errf (f : Status) : f.started.errf = false := rfl
@[simp] theorem Status.started_wait (f : Status) : f.started.wait = f.wait := rfl
@[simp] theorem Status.started_token (f : Status) : f.started.token = f.token := rfl
@[simp] theorem Status.started_mustp (f : Status) : f.started.mustp = f.mustp := rfl

/-! ### `Status.succeeded` -/

@[simp] theorem Status.succeeded_busy (f : Status) : f.succeeded.busy = false := rfl
@[simp] theorem Status.succeeded_done (f : Status) : f.succeeded.done = true := rfl
@[simp] theorem Status.succeeded_errf (f : Status) : f.succeeded.errf = f.errf := rfl
@[simp] theorem Status.succeeded_wait (f : Status) : f.succeeded.wait = f.wait := rfl
@[simp] theorem Status.succeeded_token (f : Status) : f.succeeded.token = f.token := rfl
@[simp] theorem Status.succeeded_mustp (f : Status) : f.succeeded.mustp = f.mustp := rfl

/-! ### `Status.failed` -/

@[simp] theorem Status.failed_busy (f : Status) : f.failed.busy = false := rfl
@[simp] theorem Status.failed_done (f : Status) : f.failed.done = true := rfl
@[simp] theorem Status.failed_errf (f : Status) : f.failed.errf = true := rfl
@[simp] theorem Status.failed_wait (f : Status) : f.failed.wait = false := rfl
@[simp] theorem Status.failed_token (f : Status) : f.failed.token = f.token := rfl
@[simp] theorem Status.failed_mustp (f : Status) : f.failed.mustp = f.mustp := rfl

/-! ### `Status.tokenLoaded` -/

@[simp] theorem Status.tokenLoaded_busy (f : Status) : f.tokenLoaded.busy = f.busy := rfl
@[simp] theorem Status.tokenLoaded_done (f : Status) : f.tokenLoaded.done = f.done := rfl
@[simp] theorem Status.tokenLoaded_errf (f : Status) : f.tokenLoaded.errf = f.errf := rfl
@[simp] theorem Status.tokenLoaded_wait (f : Status) : f.tokenLoaded.wait = f.wait := rfl
@[simp] theorem Status.tokenLoaded_token (f : Status) : f.tokenLoaded.token = true := rfl
@[simp] theorem Status.tokenLoaded_mustp (f : Status) : f.tokenLoaded.mustp = false := rfl

/-! ### `Status.emitted` -/

@[simp] theorem Status.emitted_busy (f : Status) : f.emitted.busy = f.busy := rfl
@[simp] theorem Status.emitted_done (f : Status) : f.emitted.done = f.done := rfl
@[simp] theorem Status.emitted_errf (f : Status) : f.emitted.errf = f.errf := rfl
@[simp] theorem Status.emitted_wait (f : Status) : f.emitted.wait = f.wait := rfl
@[simp] theorem Status.emitted_token (f : Status) : f.emitted.token = f.token := rfl
@[simp] theorem Status.emitted_mustp (f : Status) : f.emitted.mustp = true := rfl

/-! ### `Status.saved` -/

@[simp] theorem Status.saved_busy (f : Status) : f.saved.busy = f.busy := rfl
@[simp] theorem Status.saved_done (f : Status) : f.saved.done = f.done := rfl
@[simp] theorem Status.saved_errf (f : Status) : f.saved.errf = f.errf := rfl
@[simp] theorem Status.saved_wait (f : Status) : f.saved.wait = f.wait := rfl
@[simp] theorem Status.saved_token (f : Status) : f.saved.token = f.token := rfl
@[simp] theorem Status.saved_mustp (f : Status) : f.saved.mustp = false := rfl

/-! ### `Status.waiting` -/

@[simp] theorem Status.waiting_busy (f : Status) : f.waiting.busy = f.busy := rfl
@[simp] theorem Status.waiting_done (f : Status) : f.waiting.done = f.done := rfl
@[simp] theorem Status.waiting_errf (f : Status) : f.waiting.errf = f.errf := rfl
@[simp] theorem Status.waiting_wait (f : Status) : f.waiting.wait = true := rfl
@[simp] theorem Status.waiting_token (f : Status) : f.waiting.token = f.token := rfl
@[simp] theorem Status.waiting_mustp (f : Status) : f.waiting.mustp = f.mustp := rfl

/-! ### `Status.waitOver` -/

@[simp] theorem Status.waitOver_busy (f : Status) : f.waitOver.busy = f.busy := rfl
@[simp] theorem Status.waitOver_done (f : Status) : f.waitOver.done = f.done := rfl
@[simp] theorem Status.waitOver_errf (f : Status) : f.waitOver.errf = f.errf := rfl
@[simp] theorem Status.waitOver_wait (f : Status) : f.waitOver.wait = false := rfl
@[simp] theorem Status.waitOver_token (f : Status) : f.waitOver.token = f.token := rfl
@[simp] theorem Status.waitOver_mustp (f : Status) : f.waitOver.mustp = f.mustp := rfl

/-! ### Starting twice is starting once -/

@[simp] theorem State.begin_begin (p q : BitVec 8) (s : State) : (s.begin p).begin q = s.begin q := rfl

end Sys2Proof.Machine
end

