-- ==== Sys2Proof/Laws/Emit.lean ====
section
/-! SUPPORT. `EMIT_OTP` from each of its stages to its end, in one equation each. -/

namespace Sys2Proof.Machine

/-- The local values after steps 4, 5 and 6 under the token `t`. -/
def EmitLocals.filled (t : Token) (l : EmitLocals) (r : BitVec 16) : EmitLocals :=
  let l := { l with tstp := timestamp l.now t.created l.ponRand, rnd := r }
  { l with crc := stamp (t.emissionBlock l)
           text := mhxEnc (Config.E t.key (serialize (t.emissionBlock l).stamped)).toList }

/-- From step 4 to the end. -/
def State.emitTail (l : EmitLocals) (s : State) : State :=
  if l.now < s.token.created then s.raise .clockRollback
  else s.withDraw 16 fun r s => s.emitFinish (l.filled s.token r)

theorem State.raise_toStage (e : CmdError) (st : EmitStage) (l : EmitLocals) (s : State) :
    (s.toStage st l).raise e = s.raise e := rfl

theorem State.emitFinish_toStage (st : EmitStage) (l l' : EmitLocals) (s : State) :
    (s.toStage st l).emitFinish l' = s.emitFinish l' := rfl

theorem State.emitMoves_finish (l : EmitLocals) (s : State) (n : Nat) :
    (s.toStage .finish l).emitMoves (n + 1) = s.emitFinish l :=
  emitMoves_idle rfl n

theorem State.emitMoves_build (l : EmitLocals) (s : State) (n : Nat) :
    (s.toStage .build l).emitMoves (n + 2) =
      s.emitFinish { l with
        crc := stamp (s.token.emissionBlock l)
        text := mhxEnc (Config.E s.token.key (serialize (s.token.emissionBlock l).stamped)).toList } := by
  have h : (s.toStage .build l).emitMove = s.toStage .finish { l with
      crc := stamp (s.token.emissionBlock l)
      text := mhxEnc (Config.E s.token.key (serialize (s.token.emissionBlock l).stamped)).toList } := by
    simp only [emitMove_build, emitBuild, toStage_token, emitBlock_key]
    rfl
  rw [emitMoves, h, emitMoves_finish]

theorem State.emitMoves_random (l : EmitLocals) (s : State) (n : Nat) :
    (s.toStage .random l).emitMoves (n + 3) =
      s.withDraw 16 fun r s => s.emitFinish { l with
        rnd := r
        crc := stamp (s.token.emissionBlock { l with rnd := r })
        text := mhxEnc (Config.E s.token.key
          (serialize (s.token.emissionBlock { l with rnd := r }).stamped)).toList } := by
  rw [emitMoves, emitMove_random, emitRandom]
  unfold withDraw
  rw [toStage_agents]
  cases s.agents.answer.1 with
  | none => exact emitMoves_idle rfl _
  | some v => exact emitMoves_build _ { s with agents := s.agents.answer.2 } n

/-- Steps 4 to 7. -/
theorem State.emitMoves_stamp (l : EmitLocals) (s : State) (n : Nat) :
    (s.toStage .stamp l).emitMoves (n + 4) = s.emitTail l := by
  rw [emitMoves, emitMove_stamp, emitStamp, emitTail, toStage_token]
  split
  · exact emitMoves_idle rfl _
  · exact emitMoves_random _ s n

/-- The end of step 3 after the wait, and steps 4 to 7. -/
theorem State.emitMoves_collideEnd (l : EmitLocals) (s : State) (n : Nat) :
    (s.toStage .collideEnd l).emitMoves (n + 5) =
      s.emitTail { l with ponRand := clearNibble l.ponRand } :=
  emitMoves_stamp { l with ponRand := clearNibble l.ponRand } s n

/-- Step 3 and what follows it. -/
theorem State.emitMoves_collide (l : EmitLocals) (s : State) (n : Nat) :
    (s.toStage .collide l).emitMoves (n + 5) =
      if l.now = l.lastUse then
        if 6 < lowNibble l.ponRand then { s with status := s.status.waiting }.toStage .hold l
        else s.emitTail { l with ponRand := l.ponRand + 1 }
      else s.emitTail { l with lastUse := l.now, ponRand := clearNibble l.ponRand } := by
  rw [emitMoves, emitMove_collide, emitCollide]
  split
  · split
    · exact emitMoves_hold rfl _
    · exact emitMoves_stamp _ s n
  · exact emitMoves_stamp _ s n

/-- Step 2 and what follows it. -/
theorem State.emitMoves_clock (l : EmitLocals) (s : State) (n : Nat) :
    (s.toStage .clock l).emitMoves (n + 6) =
      s.withNow fun t s => (s.toStage .collide { l with now := t }).emitMoves (n + 5) := by
  rfl

/-- Step 1 and what follows it. -/
theorem State.emitMoves_advance (l : EmitLocals) (s : State) (n : Nat) :
    (s.toStage .advance l).emitMoves (n + 7) =
      if l.sess = 0xFF then
        if 0x7FFF ≤ l.ctr then s.raise .counterExhausted
        else s.withDraw 32 fun pr s =>
          (s.toStage .clock { l with ctr := l.ctr + 1, ponRand := clearNibble pr, sess := 1 }).emitMoves
            (n + 6)
      else (s.toStage .clock { l with sess := l.sess + 1 }).emitMoves (n + 6) := by
  rw [emitMoves, emitMove_advance, emitAdvance]
  split
  · split
    · exact emitMoves_idle rfl _
    · unfold withDraw
      rw [toStage_agents]
      cases s.agents.answer.1 with
      | none => exact emitMoves_idle rfl _
      | some v => rfl
  · rfl

/-- `EMIT_OTP` from its start: the token check and the seven steps. -/
theorem State.emitRun_start (s : State) :
    s.emitStart.emitRun =
      (s.begin 0x01).withToken fun s => (s.toStage .advance s.token.locals).emitMoves 7 := by
  unfold emitStart emitRun
  generalize s.begin 0x01 = s
  unfold withToken
  split
  · rfl
  · exact emitMoves_idle rfl _

/-- A held command asked once. -/
theorem State.emitResume_cases (l : EmitLocals) (s : State) (h : s.flight = .emit .hold l) :
    s.emitResume l = s.withNow fun t s =>
      if l.now < t then
        { s with status := s.status.waitOver }.emitTail
          { l with now := t, ponRand := clearNibble l.ponRand }
      else s := by
  unfold emitResume emitHold withNow
  simp only
  split
  · exact emitMoves_collideEnd _ _ 2
  · exact emitMoves_hold (s := { s with agents := s.agents.now.2 }) (l := l) h 7

/-- Everything steps 4 to 7 can do. -/
theorem State.emitTail_cases (l : EmitLocals) (s : State) :
    (l.now < s.token.created ∧ s.emitTail l = s.raise .clockRollback) ∨
    (s.token.created ≤ l.now ∧
      s.emitTail l = State.raise .randomSourceFailure { s with agents := s.agents.answer.2 }) ∨
    (s.token.created ≤ l.now ∧ ∃ r,
      s.emitTail l =
        State.emitFinish (l.filled s.token r) { s with agents := s.agents.answer.2 }) := by
  unfold emitTail
  split
  · exact .inl ⟨‹_›, rfl⟩
  · have hc : s.token.created ≤ l.now := BitVec.not_lt.mp ‹_›
    rcases withDraw_cases 16 s fun r s => s.emitFinish (l.filled s.token r) with ⟨v, -, e⟩ | ⟨-, e⟩
    · exact .inr (.inr ⟨hc, _, e⟩)
    · exact .inr (.inl ⟨hc, e⟩)

/-- A draw leaves the readings to come as they are. -/
@[simp] theorem Agents.answer_times (a : Agents) : a.answer.2.times = a.times := by
  unfold answer; split <;> rfl

@[simp] theorem Agents.answer_timeCount (a : Agents) : a.answer.2.timeCount = a.timeCount := by
  unfold answer; split <;> rfl

/-- A draw leaves every reading to come as it is. -/
@[simp] theorem Agents.answer_reading (a : Agents) (k : Nat) : a.answer.2.reading k = a.reading k := by
  simp [reading]

theorem Agents.answer_now (a : Agents) : a.answer.2.now.1 = a.now.1 := by
  unfold now
  rw [answer_times, answer_timeCount]
  split <;> rfl

/-- What a run of `EMIT_OTP` past step 1 ends in: one of two errors, the wait, or success. -/
inductive EmitEnd (s : State) (t : State) : Prop where
  | failed (a : Agents) (e : CmdError) (he : e = .randomSourceFailure ∨ e = .clockRollback)
      (h : t = s.endedErr e a)
  | held (a : Agents) (l : EmitLocals) (follows : l.follows s.token .hold)
      (h : t = ({ s.begin 0x01 with
        agents := a, status := s.status.started.waiting }).toStage .hold l)
  | done (a : Agents) (l : EmitLocals) (r : BitVec 16) (pair : s.token.nextPair l.ctr l.sess)
      (now : l.now = s.agents.now.1) (lastUse : l.lastUse = l.now) (created : s.token.created ≤ l.now)
      (rand : s.token.nextRand l.ponRand) (h : t = State.emitFinish (l.filled s.token r) { s.begin 0x01 with agents := a })

theorem EmitEnd.of_clock {s : State} {a : Agents} {l : EmitLocals}
    (pair : s.token.nextPair l.ctr l.sess) (hl : l.lastUse = s.token.lastUse)
    (hr : s.token.session ≠ 0xFF → l.ponRand = s.token.ponRand) (ha : a.now.1 = s.agents.now.1) :
    EmitEnd s ((({ s.begin 0x01 with agents := a } : State).toStage .clock l).emitMoves 6) := by
  rw [State.emitMoves_clock (n := 0), State.withNow]
  have tail : ∀ l' : EmitLocals, s.token.nextPair l'.ctr l'.sess → l'.now = s.agents.now.1 →
      l'.lastUse = l'.now → s.token.nextRand l'.ponRand →
      EmitEnd s (State.emitTail l' { s.begin 0x01 with agents := a.now.2 }) := by
    intro l' pair' now' last' rand'
    rcases State.emitTail_cases l' { s.begin 0x01 with agents := a.now.2 } with
      ⟨-, e⟩ | ⟨-, e⟩ | ⟨hc, r, e⟩
    · exact .failed _ _ (.inr rfl) e
    · exact .failed _ _ (.inl rfl) e
    · exact .done _ l' r pair' now' last' hc rand' e
  show EmitEnd s ((({ s.begin 0x01 with agents := a.now.2 } : State).toStage .collide
    { l with now := a.now.1 }).emitMoves (0 + 5))
  rw [State.emitMoves_collide]
  split
  · rename_i hn
    have hn : a.now.1 = l.lastUse := hn
    split
    · exact .held a.now.2 { l with now := a.now.1 } ⟨pair, hl, hr, hn.trans hl, ‹_›⟩ rfl
    · exact tail _ pair ha hn.symm ⟨_, hr, .inr ⟨BitVec.not_lt.mp ‹_›, rfl⟩⟩
  · exact tail _ pair ha rfl ⟨_, hr, .inl rfl⟩

/-- Everything `EMIT_OTP` can do. -/
theorem State.emitRun_cases (s : State) :
    (s.status.token = false ∧ s.emitStart.emitRun = s.endedErr .noToken s.agents) ∨
    (s.status.token = true ∧ s.token.session = 0xFF ∧ 0x7FFF ≤ s.token.counter ∧
      s.emitStart.emitRun = s.endedErr .counterExhausted s.agents) ∨
    (s.status.token = true ∧ ¬ (s.token.session = 0xFF ∧ 0x7FFF ≤ s.token.counter) ∧
      EmitEnd s s.emitStart.emitRun) := by
  rw [emitRun_start]
  rcases withToken_cases (s.begin 0x01)
    (fun s => (s.toStage .advance s.token.locals).emitMoves 7) with ⟨h, e⟩ | ⟨h, e⟩
  · exact .inl ⟨h, e⟩
  · rw [e, emitMoves_advance (n := 0)]
    split
    · rename_i hs
      split
      · exact .inr (.inl ⟨h, hs, ‹_›, rfl⟩)
      · rename_i hc
        refine .inr (.inr ⟨h, fun x => hc x.2, ?_⟩)
        rcases withDraw_cases 32 (s.begin 0x01) fun pr s' =>
          (s'.toStage .clock { (s.begin 0x01).token.locals with
            ctr := (s.begin 0x01).token.locals.ctr + 1, ponRand := clearNibble pr
            sess := 1 }).emitMoves 6 with ⟨v, -, e⟩ | ⟨-, e⟩
        · rw [e]
          exact .of_clock (.inr ⟨hs, BitVec.not_le.mp hc, rfl, rfl⟩) rfl (absurd hs) (s.agents.answer_now)
        · exact .failed _ _ (.inl rfl) e
    · rename_i hs
      exact .inr (.inr ⟨h, fun x => hs x.1, .of_clock (s := s) (a := s.agents) (.inl ⟨hs, rfl, rfl⟩) rfl
        (fun _ => rfl) rfl⟩)

end Sys2Proof.Machine
end

