-- ==== Sys2Proof/Laws/Exec.lean ====
section
/-! SUPPORT. Everything a command can do to the state, once for all sixteen. -/

namespace Sys2Proof.Machine

/-- What a successful command leaves in `DOUT` and `DOUT_LEN`: what was there, or a result that fits. -/
inductive Answered (s : State) (dout : Memory) (len : BitVec 32) : Prop where
  | untouched (hd : dout = s.dout) (hl : len = s.doutLen)
  | result (bs : List Byte) (fits : bs.length ≤ 2 * Config.bufCap)
      (hd : dout = s.dout.writeBytes 0 bs) (hl : len = BitVec.ofNat 32 bs.length)

/-- What a successful command does to the token registers and to `TOKEN` and `MUSTP`. -/
inductive TokenEffect (i : Instr) (s : State) (tok : Token) (f : Status → Status) : Prop where
  | none (hi : i ∉ [Instr.create, .createOvr, .emitOtp, .recLoad, .recSave]) (ht : tok = s.token)
      (hf : f = id)
  | loaded (hi : i ∈ [Instr.create, .createOvr, .recLoad]) (hf : f = Status.tokenLoaded)
  | emitted (hi : i = .emitOtp) (l : EmitLocals) (present : s.status.token = true)
      (pair : s.token.nextPair l.ctr l.sess)
      (ht : tok = { s.token with counter := l.ctr, session := l.sess, lastUse := l.lastUse,
                                 ponRand := l.ponRand })
      (hf : f = Status.emitted)
  | saved (hi : i = .recSave) (ht : tok = s.token) (hf : f = Status.saved)

/-- How a command ends: by the error entry with one of its errors, held in the wait, or with success. -/
inductive CmdEnd (i : Instr) (s t : State) : Prop where
  | failed (e : CmdError) (a : Agents) (he : e ∈ errorsOf i) (h : t = s.endedErr e a)
  | held (hi : i = .emitOtp) (a : Agents) (l : EmitLocals) (present : s.status.token = true)
      (follows : l.follows s.token .hold)
      (h : t = ({ s.begin 0x01 with
        agents := a, status := s.status.started.waiting }).toStage .hold l)
  | done (tok : Token) (crc : BitVec 16) (dout : Memory) (len : BitVec 32) (reg : BitVec 16)
      (a : Agents) (f : Status → Status) (answered : Answered s dout len)
      (token : TokenEffect i s tok f)
      (writesCrc : i ∉ [Instr.blkStamp, .blkEmit] → crc = s.block.crc)
      (writesReg : i ≠ .crc16 → reg = s.crcReg)
      (silent : i ∈ [Instr.crc16, .blkStamp, .create, .createOvr, .recLoad] →
        dout = s.dout ∧ len = s.doutLen)
      (h : t = { s with
        token := tok, block := { s.block with crc := crc }, dout := dout, doutLen := len,
        crcReg := reg, agents := a }.endedOk f)

/-! ### Lengths and errors of the pieces -/

theorem length_encodeText (sym : BitVec 4 → Byte) (b : List Byte) :
    (encodeText sym b).length = 2 * b.length := by
  induction b with
  | nil => rfl
  | cons x b ih => simp only [encodeText, List.flatMap_cons, List.length_append] at *; simp [ih]; omega

theorem length_decodeText {val : Byte → Option (BitVec 4)} :
    ∀ {t b : List Byte}, decodeText val t = some b → 2 * b.length = t.length
  | [], b, h => by simp [decodeText] at h; subst h; rfl
  | [_], b, h => by simp [decodeText] at h
  | x :: y :: t, b, h => by
    rw [decodeText] at h
    split at h
    · rename_i hd
      simp only [Option.some.injEq] at h
      subst h
      have := length_decodeText hd
      simp only [List.length_cons]
      omega
    · cases h

/-- A decoder answers half the length, or `InvalidEncoding`. -/
theorem orInvalidEncoding_cases (val : Byte → Option (BitVec 4)) (t : List Byte) :
    (∃ b, orInvalidEncoding (decodeText val t) = .ok b ∧ 2 * b.length = t.length) ∨
    orInvalidEncoding (decodeText val t) = .error .invalidEncoding := by
  cases h : decodeText val t with
  | none => exact .inr rfl
  | some b => exact .inl ⟨b, rfl, length_decodeText h⟩

/-- The errors a record line can have (45_record R237). -/
def recordErrors : List CmdError := [.invalidEncoding, .invalidLength, .badRecord]

theorem parseDec_error {n : Nat} {t : List Byte} {e : CmdError} (h : parseDec n t = .error e) :
    e = .badRecord := by
  unfold parseDec at h
  split at h
  · cases h; rfl
  · split at h
    · cases h; rfl
    · split at h
      · cases h; rfl
      · cases h

theorem sizedBytes_error {n : Nat} {r : Except CmdError (List Byte)} {e : CmdError}
    (h : sizedBytes n r = .error e) : r = .error e ∨ e = .invalidLength := by
  unfold sizedBytes at h
  split at h
  · cases h; exact .inl rfl
  · split at h
    · cases h
    · cases h; exact .inr rfl

theorem map_error {α β : Type} {f : α → β} {r : Except CmdError α} {e : CmdError}
    (h : r.map f = .error e) : r = .error e := by
  cases r with
  | ok v => cases h
  | error e' => cases h; rfl

theorem orInvalidEncoding_error {r : Option (List Byte)} {e : CmdError}
    (h : orInvalidEncoding r = .error e) : e = .invalidEncoding := by
  cases r <;> cases h; rfl

theorem loadValue_error {k : RecordKey} {v : List Byte} {t : Token} {e : CmdError}
    (h : loadValue k v t = .error e) : e ∈ recordErrors := by
  have bytes : ∀ {n : Nat} {r : Option (List Byte)},
      sizedBytes n (orInvalidEncoding r) = .error e → e ∈ recordErrors := fun h => by
    rcases sizedBytes_error h with h | rfl
    · rw [orInvalidEncoding_error h]; decide
    · decide
  cases k <;> have h := map_error h
  · exact bytes h
  · exact bytes h
  · exact bytes h
  all_goals rw [parseDec_error h]; decide

theorem loadLine_error {line : List Byte} {t : Token} {e : CmdError}
    (h : loadLine line t = .error e) : e ∈ recordErrors := by
  unfold loadLine at h
  split at h
  · cases h
  · split at h
    · cases h
    · exact loadValue_error h

theorem loadLines_error {e : CmdError} :
    ∀ {ls : List (List Byte)} {t : Token}, loadLines ls t = .error e → e ∈ recordErrors
  | [], _, h => by cases h
  | l :: ls, t, h => by
    rw [loadLines] at h
    split at h
    · exact loadLines_error h
    · rename_i h'; cases h; exact loadLine_error h'

theorem length_decDigits_le (k : Nat) :
    ∀ (fuel v : Nat) (acc : List Byte), v < 10 ^ (k + 1) →
      (decDigits fuel v acc).length ≤ k + 1 + acc.length := by
  induction k with
  | zero =>
    intro fuel v acc h
    cases fuel with
    | zero => rw [decDigits]; omega
    | succ n => rw [decDigits, if_pos (by omega), List.length_cons]; omega
  | succ k ih =>
    intro fuel v acc h
    cases fuel with
    | zero => rw [decDigits]; omega
    | succ n =>
      rw [decDigits]
      split
      · rw [List.length_cons]; omega
      · have := ih n (v / 10) (decDigit (v % 10) :: acc)
          (Nat.div_lt_of_lt_mul (by rw [← Nat.pow_succ']; exact h))
        simp only [List.length_cons] at this
        omega

/-- A value below `10 ^ (k + 1)` has at most `k + 1` digits. -/
theorem length_decText_le {k v : Nat} (h : v < 10 ^ (k + 1)) : (decText v).length ≤ k + 1 :=
  length_decDigits_le k _ v [] h

/-- A record fits `DOUT` (45_record R243). -/
theorem length_render_le (t : Token) : t.render.length ≤ 199 := by
  have h1 := length_decText_le (k := 4) (v := t.counter.toNat) (by have := t.counter.isLt; omega)
  have h2 := length_decText_le (k := 2) (v := t.session.toNat) (by have := t.session.isLt; omega)
  have h3 := length_decText_le (k := 19) (v := t.created.toNat) (by have := t.created.isLt; omega)
  have h4 := length_decText_le (k := 19) (v := t.lastUse.toNat) (by have := t.lastUse.isLt; omega)
  have h5 := length_decText_le (k := 9) (v := t.ponRand.toNat) (by have := t.ponRand.isLt; omega)
  simp [Token.render, RecordKey.all, Token.recordLine, RecordKey.name, Token.valueText, asciiText, mhxEnc,
    hexEnc, length_encodeText]
  omega

theorem length_registration (t : Token) : t.registration.length = 60 := by
  simp [Token.registration, mhxEnc, hexEnc, length_encodeText, commaSpace, asciiText]

/-! ### The ways a command ends -/

theorem CmdEnd.ok_result {i : Instr} {s : State} {bs : List Byte}
    (hi : i ∉ [Instr.create, .createOvr, .emitOtp, .recLoad, .recSave])
    (hs : i ∉ [Instr.crc16, .blkStamp, .create, .createOvr, .recLoad])
    (fits : bs.length ≤ 2 * Config.bufCap) :
    CmdEnd i s (((s.begin 0x10).putResult bs).complete) :=
  .done s.token s.block.crc _ _ s.crcReg s.agents id (.result bs fits rfl rfl) (.none hi rfl rfl)
    (fun _ => rfl) (fun _ => rfl) (fun h => absurd h hs) rfl

/-- A bound that every result smaller than 512 bytes has. -/
theorem fits_small {n : Nat} (h : n ≤ 512) : n ≤ 2 * Config.bufCap := by
  have := Config.bufCap_ge
  omega

theorem CmdEnd.withDin {i : Instr} {s : State} {k : List Byte → State → State}
    (he : CmdError.badOperand ∈ errorsOf i)
    (hk : s.dinLen.toNat ≤ Config.bufCap → CmdEnd i s (k s.dinOperand (s.begin 0x10))) :
    CmdEnd i s ((s.begin 0x10).withDin k) := by
  rcases State.withDin_cases (s.begin 0x10) k with ⟨-, e⟩ | ⟨h, e⟩
  · rw [e]; exact .failed .badOperand s.agents he rfl
  · rw [e]; exact hk h

theorem CmdEnd.withKin {i : Instr} {s : State} {k : List Byte → State → State}
    (he : CmdError.badOperand ∈ errorsOf i) (hk : CmdEnd i s (k s.kinOperand (s.begin 0x10))) :
    CmdEnd i s ((s.begin 0x10).withKin k) := by
  rcases State.withKin_cases (s.begin 0x10) k with ⟨-, e⟩ | ⟨-, e⟩
  · rw [e]; exact .failed .badOperand s.agents he rfl
  · rw [e]; exact hk

theorem CmdEnd.withToken {i : Instr} {s : State} {k : State → State}
    (he : CmdError.noToken ∈ errorsOf i) (hk : CmdEnd i s (k (s.begin 0x10))) :
    CmdEnd i s ((s.begin 0x10).withToken k) := by
  rcases State.withToken_cases (s.begin 0x10) k with ⟨-, e⟩ | ⟨-, e⟩
  · rw [e]; exact .failed .noToken s.agents he rfl
  · rw [e]; exact hk

theorem CmdEnd.withDraw {i : Instr} {s : State} {n : Nat} {a : Agents}
    {k : BitVec n → State → State} (he : CmdError.randomSourceFailure ∈ errorsOf i)
    (hk : ∀ v a, CmdEnd i s (k v { s.begin 0x10 with agents := a })) :
    CmdEnd i s (({ s.begin 0x10 with agents := a } : State).withDraw n k) := by
  rcases State.withDraw_cases n { s.begin 0x10 with agents := a } k with ⟨v, -, e⟩ | ⟨-, e⟩
  · rw [e]; exact hk _ _
  · rw [e]; exact .failed .randomSourceFailure _ he rfl

theorem CmdEnd.withBytes {i : Instr} {s : State} {n : Nat} {a : Agents} {x : Option (Bytes n)}
    {k : Bytes n → State → State} (he : CmdError.randomSourceFailure ∈ errorsOf i)
    (hk : ∀ v a, CmdEnd i s (k v { s.begin 0x10 with agents := a })) :
    CmdEnd i s (({ s.begin 0x10 with agents := a } : State).withBytes n x k) := by
  cases x with
  | none => exact .withDraw he fun _ _ => hk _ _
  | some b => exact hk _ _

theorem CmdEnd.withPubId {i : Instr} {s : State} {a : Agents} {x : Option (Bytes 6)}
    {k : Bytes 6 → State → State} (he : CmdError.randomSourceFailure ∈ errorsOf i)
    (hk : ∀ v a, CmdEnd i s (k v { s.begin 0x10 with agents := a })) :
    CmdEnd i s (({ s.begin 0x10 with agents := a } : State).withPubId x k) := by
  cases x with
  | none =>
    exact .withBytes (x := none) (k := fun r s => k (prefixed r) s) he fun _ _ => hk _ _
  | some b => exact hk _ _

theorem CmdEnd.createToken {i : Instr} (s : State) (p q : Option (Bytes 6)) (k : Option (Bytes 16))
    (c : BitVec 16) (he : CmdError.randomSourceFailure ∈ errorsOf i)
    (hi : i ∈ [Instr.create, .createOvr]) : CmdEnd i s ((s.begin 0x10).createToken p q k c) := by
  refine CmdEnd.withPubId (a := s.agents) he fun v1 a1 => .withBytes he fun v2 a2 =>
    .withBytes he fun v3 a3 => ?_
  rw [State.withNow]
  refine CmdEnd.withDraw (a := a3.now.2) he fun v4 a4 => ?_
  refine .done _ s.block.crc s.dout s.doutLen s.crcReg a4 Status.tokenLoaded (.untouched rfl rfl)
    (.loaded (by simp at hi ⊢; tauto) rfl) (fun _ => rfl) (fun _ => rfl) (fun _ => ⟨rfl, rfl⟩) rfl

theorem CmdEnd.cipher {i : Instr} {s : State} (f : Bytes 16 → Bytes 16 → Bytes 16)
    (key block : List Byte) (he : CmdError.invalidLength ∈ errorsOf i)
    (hi : i ∉ [Instr.create, .createOvr, .emitOtp, .recLoad, .recSave])
    (hs : i ∉ [Instr.crc16, .blkStamp, .create, .createOvr, .recLoad]) :
    CmdEnd i s ((s.begin 0x10).finishWith (cipherCall f key block)
      fun ct s => s.putResult ct.toList) := by
  rcases cipherCall_cases f key block with ⟨k, b, -, -, e⟩ | ⟨-, e⟩
  · rw [e]; exact .ok_result hi hs (fits_small (by simp))
  · rw [e]; exact .failed .invalidLength s.agents he rfl

theorem CmdEnd.decoder {i : Instr} {s : State} (val : Byte → Option (BitVec 4))
    (h : s.dinLen.toNat ≤ Config.bufCap) (he : CmdError.invalidEncoding ∈ errorsOf i)
    (hi : i ∉ [Instr.create, .createOvr, .emitOtp, .recLoad, .recSave])
    (hs : i ∉ [Instr.crc16, .blkStamp, .create, .createOvr, .recLoad]) :
    CmdEnd i s ((s.begin 0x10).finishWith (orInvalidEncoding (decodeText val s.dinOperand))
      State.putResult) := by
  rcases orInvalidEncoding_cases val s.dinOperand with ⟨b, e, hb⟩ | e
  · rw [e]
    refine .ok_result hi hs ?_
    have : s.dinOperand.length = s.dinLen.toNat := by simp [State.dinOperand, Memory.readBytes]
    omega
  · rw [e]; exact .failed .invalidEncoding s.agents he rfl

theorem CmdEnd.encoder {i : Instr} {s : State} (sym : BitVec 4 → Byte)
    (h : s.dinLen.toNat ≤ Config.bufCap)
    (hi : i ∉ [Instr.create, .createOvr, .emitOtp, .recLoad, .recSave])
    (hs : i ∉ [Instr.crc16, .blkStamp, .create, .createOvr, .recLoad]) :
    CmdEnd i s (((s.begin 0x10).putResult (encodeText sym s.dinOperand)).complete) := by
  refine .ok_result hi hs ?_
  rw [length_encodeText]
  have : s.dinOperand.length = s.dinLen.toNat := by simp [State.dinOperand, Memory.readBytes]
  omega

/-- Everything `EMIT_OTP` can do, in the common form. -/
theorem CmdEnd.emitOtp (s : State) : CmdEnd .emitOtp s s.emitStart.emitRun := by
  rcases State.emitRun_cases s with ⟨-, e⟩ | ⟨-, -, -, e⟩ | ⟨ht, -, h⟩
  · rw [e]; exact .failed .noToken _ (by decide) rfl
  · rw [e]; exact .failed .counterExhausted _ (by decide) rfl
  · cases h with
    | failed a e he h => exact .failed e a (by rcases he with rfl | rfl <;> decide) h
    | held a l follows h => exact .held rfl a l ht follows h
    | done a l r pair _ _ _ _ h =>
      refine .done _ s.block.crc _ _ s.crcReg a Status.emitted (.result _ ?_ rfl rfl)
        (.emitted rfl l ht pair rfl rfl) (fun _ => rfl) (fun _ => rfl)
        (fun hi => absurd hi (by decide)) h
      exact fits_small (by simp [mhxEnc, length_encodeText, EmitLocals.filled])

/-- Everything a command can do. -/
theorem exec_cases (i : Instr) (s : State) : ∃ t, exec i s = .next t ∧ CmdEnd i s t := by
  cases i <;> refine ⟨_, rfl, ?_⟩
  case mhxEnc => exact .withDin (by decide) fun h => .encoder alphaA h (by decide) (by decide)
  case mhxDec => exact .withDin (by decide) fun h => .decoder aval h (by decide) (by decide) (by decide)
  case hexEnc => exact .withDin (by decide) fun h => .encoder hexD h (by decide) (by decide)
  case hexDec => exact .withDin (by decide) fun h => .decoder hval h (by decide) (by decide) (by decide)
  case crc16 =>
    exact .withDin (by decide) fun _ => .done s.token s.block.crc s.dout s.doutLen _ s.agents id
      (.untouched rfl rfl) (.none (by decide) rfl rfl) (fun _ => rfl) (fun h => absurd rfl h)
      (fun _ => ⟨rfl, rfl⟩) rfl
  case aesEnc =>
    exact .withDin (by decide) fun _ => .withKin (by decide)
      (.cipher Config.E _ _ (by decide) (by decide) (by decide))
  case aesDec =>
    exact .withDin (by decide) fun _ => .withKin (by decide)
      (.cipher Config.Dc _ _ (by decide) (by decide) (by decide))
  case blkStamp =>
    exact .done s.token _ s.dout s.doutLen s.crcReg s.agents id (.untouched rfl rfl)
      (.none (by decide) rfl rfl) (fun h => absurd (by decide) h) (fun _ => rfl)
      (fun _ => ⟨rfl, rfl⟩) rfl
  case blkSer => exact .ok_result (by decide) (by decide) (fits_small (by simp))
  case blkEmit =>
    refine .withKin (by decide) ?_
    by_cases hk : s.kinOperand.length = 16
    · obtain ⟨k, -, hk⟩ := toBytes_of_length hk
      rw [← hk, emitBlock_key]
      exact .done s.token _ _ _ s.crcReg s.agents id
        (.result _ (fits_small (by simp [mhxEnc, length_encodeText])) rfl rfl)
        (.none (by decide) rfl rfl) (fun h => absurd (by decide) h) (fun _ => rfl)
        (fun h => absurd h (by decide)) rfl
    · rw [emitBlock_wrong_key hk]
      exact .failed .invalidLength s.agents (by decide) rfl
  case create => exact .createToken s _ _ _ _ (by decide) (by decide)
  case createOvr =>
    split
    · exact .failed .badOperand s.agents (by decide) rfl
    · exact .createToken s _ _ _ _ (by decide) (by decide)
  case emitOtp => exact .emitOtp s
  case regExport =>
    exact .withToken (by decide) (.ok_result (by decide) (by decide)
      (fits_small (by rw [length_registration]; decide)))
  case recLoad =>
    refine .withDin (by decide) fun _ => ?_
    cases h : parseRecord s.dinOperand with
    | error e =>
      have he := loadLines_error h
      refine .failed e s.agents ?_ rfl
      simp only [recordErrors, List.mem_cons, List.not_mem_nil, or_false] at he
      rcases he with rfl | rfl | rfl <;> decide
    | ok u =>
      show CmdEnd .recLoad s (if s.agents.now.1 < u.lastUse then _ else _)
      split
      · exact .failed .clockRollback _ (by decide) rfl
      · exact .done u s.block.crc s.dout s.doutLen s.crcReg _ Status.tokenLoaded (.untouched rfl rfl)
          (.loaded (by decide) rfl) (fun _ => rfl) (fun _ => rfl) (fun _ => ⟨rfl, rfl⟩) rfl
  case recSave =>
    exact .withToken (by decide) (.done s.token s.block.crc _ _ s.crcReg s.agents Status.saved
      (.result _ (fits_small (Nat.le_trans (length_render_le _) (by decide))) rfl rfl)
      (.saved rfl rfl rfl) (fun _ => rfl) (fun _ => rfl) (fun h => absurd h (by decide)) rfl)

end Sys2Proof.Machine
end

