-- ==== Sys2Proof/Laws/Memory.lean ====
section
/-! SUPPORT. What a buffer reads after a write, and that every buffer operation keeps the canonical
form and the capacity. -/

namespace Sys2Proof.Machine

@[simp] theorem Memory.read_nil (x : Nat) : Memory.read [] x = 0 := rfl

/-- The buffer of zeros is in canonical form. -/
theorem Memory.wf_nil : Memory.wf [] := ⟨List.Pairwise.nil, fun _ h => by cases h⟩

theorem Memory.read_cons (c : Host.Cell) (m : Memory) (x : Nat) :
    Memory.read (c :: m) x = if c.1 = x then c.2 else Memory.read m x := rfl

/-- An index below every listed one reads zero. -/
theorem Memory.read_eq_zero {m : Memory} {x : Nat} (h : ∀ c ∈ m, x < c.1) : Memory.read m x = 0 := by
  induction m with
  | nil => rfl
  | cons c m ih =>
    have hc := h c (by simp)
    rw [read_cons, if_neg (by omega), ih fun d hd => h d (by simp [hd])]

/-- Reading after one write, in a buffer whose indices rise. -/
theorem Memory.read_write {m : Memory} (h : m.Pairwise (fun x y => x.1 < y.1)) (a : Nat) (b : Byte)
    (x : Nat) : (m.write a b).read x = if x = a then b else m.read x := by
  induction m with
  | nil =>
    rw [write]
    split
    · rename_i hb
      simp [hb]
    · simp only [read_cons, read_nil, eq_comm (a := a)]
  | cons c m ih =>
    obtain ⟨hc, hm⟩ := List.pairwise_cons.mp h
    have ih := ih hm
    rw [write]
    by_cases h1 : c.1 < a
    · rw [if_pos h1, read_cons, read_cons, ih]
      by_cases hcx : c.1 = x
      · rw [if_pos hcx, if_neg (by omega), if_pos hcx]
      · simp [hcx]
    · rw [if_neg h1]
      by_cases h2 : c.1 = a
      · rw [if_pos h2]
        have hz : ∀ d ∈ m, a < d.1 := fun d hd => h2 ▸ hc d hd
        by_cases hb : b = 0
        · rw [if_pos hb, read_cons]
          by_cases hx : x = a
          · rw [if_pos hx, hx, hb, read_eq_zero hz]
          · rw [if_neg hx, if_neg (by omega)]
        · rw [if_neg hb, read_cons, read_cons]
          by_cases hx : x = a
          · simp [hx]
          · simp [hx, h2, eq_comm (a := a)]
      · rw [if_neg h2]
        have hz : ∀ d ∈ c :: m, a < d.1 := by
          intro d hd
          rcases List.mem_cons.mp hd with rfl | hd
          · omega
          · have := hc d hd; omega
        by_cases hb : b = 0
        · rw [if_pos hb]
          by_cases hx : x = a
          · rw [if_pos hx, hx, hb, read_eq_zero hz]
          · rw [if_neg hx]
        · rw [if_neg hb, read_cons (a, b)]
          by_cases hx : x = a
          · simp [hx]
          · rw [if_neg hx, if_neg (by simpa using fun h => hx h.symm)]

/-- Every cell of a written buffer is the written one or an old one. -/
theorem Memory.mem_write {m : Memory} {a : Nat} {b : Byte} {c : Host.Cell}
    (h : c ∈ m.write a b) : c ∈ m ∨ (c = (a, b) ∧ b ≠ 0) := by
  induction m with
  | nil =>
    rw [write] at h
    split at h
    · cases h
    · rename_i hb
      exact .inr ⟨List.mem_singleton.mp h, hb⟩
  | cons d m ih =>
    rw [write] at h
    split at h
    · rcases List.mem_cons.mp h with rfl | h
      · simp
      · rcases ih h with h | h
        · simp [h]
        · exact .inr h
    · split at h
      · split at h
        · simp [h]
        · rename_i hb
          rcases List.mem_cons.mp h with h | h
          · exact .inr ⟨h, hb⟩
          · simp [h]
      · split at h
        · exact .inl h
        · rename_i hb
          rcases List.mem_cons.mp h with h | h
          · exact .inr ⟨h, hb⟩
          · exact .inl h

/-- A write keeps the canonical form. -/
theorem Memory.wf_write {m : Memory} (h : m.wf) (a : Nat) (b : Byte) : (m.write a b).wf := by
  refine ⟨?_, fun c hc => ?_⟩
  · obtain ⟨h, -⟩ := h
    induction m with
    | nil => rw [write]; split <;> simp
    | cons c m ih =>
      obtain ⟨hc, hm⟩ := List.pairwise_cons.mp h
      rw [write]
      split
      · rename_i h1
        refine List.pairwise_cons.mpr ⟨fun d hd => ?_, ih hm⟩
        rcases mem_write hd with hd | ⟨rfl, -⟩
        · exact hc d hd
        · exact h1
      · rename_i h1
        split
        · rename_i h2
          split
          · exact hm
          · exact List.pairwise_cons.mpr ⟨fun d hd => h2 ▸ hc d hd, hm⟩
        · rename_i h2
          split
          · exact h
          · refine List.pairwise_cons.mpr ⟨fun d hd => ?_, h⟩
            rcases List.mem_cons.mp hd with rfl | hd
            · simp only; omega
            · have := hc d hd; simp only; omega
  · rcases mem_write hc with hc | ⟨rfl, hb⟩
    · exact h.2 c hc
    · exact hb

/-- A write below the capacity stays within it. -/
theorem Memory.within_write {m : Memory} {n : Nat} (h : m.within n) {a : Nat} (ha : a < n) (b : Byte) :
    (m.write a b).within n := fun c hc => by
  rcases mem_write hc with hc | ⟨rfl, -⟩
  · exact h c hc
  · exact ha

/-- A written sequence keeps the canonical form. -/
theorem Memory.wf_writeBytes {m : Memory} (h : m.wf) (a : Nat) (bs : List Byte) :
    (m.writeBytes a bs).wf := by
  induction bs generalizing m a with
  | nil => exact h
  | cons b bs ih => exact ih (wf_write h a b) (a + 1)

/-- A sequence written below the capacity stays within it. -/
theorem Memory.within_writeBytes {m : Memory} {n : Nat} (h : m.within n) {a : Nat} {bs : List Byte}
    (ha : a + bs.length ≤ n) : (m.writeBytes a bs).within n := by
  induction bs generalizing m a with
  | nil => exact h
  | cons b bs ih =>
    simp only [List.length_cons] at ha
    exact ih (within_write h (by omega) b) (by omega)

/-- Reading after a written sequence: the sequence where it was written, the old byte elsewhere. -/
theorem Memory.read_writeBytes {m : Memory} (h : m.wf) (a : Nat) (bs : List Byte) (x : Nat) :
    (m.writeBytes a bs).read x =
      if a ≤ x ∧ x < a + bs.length then bs.getD (x - a) 0 else m.read x := by
  induction bs generalizing m a with
  | nil => simp [writeBytes]
  | cons b bs ih =>
    rw [writeBytes, ih (wf_write h a b), read_write h.1]
    simp only [List.length_cons]
    by_cases hx : x = a
    · subst hx; simp
    · by_cases hr : a + 1 ≤ x ∧ x < a + 1 + bs.length
      · rw [if_pos hr, if_pos (by omega)]
        obtain ⟨k, rfl⟩ : ∃ k, x = a + 1 + k := ⟨x - (a + 1), by omega⟩
        rw [show a + 1 + k - (a + 1) = k by omega, show a + 1 + k - a = k + 1 by omega]
        simp
      · rw [if_neg hr, if_neg hx, if_neg (by omega)]

@[simp] theorem Memory.length_readBytes (m : Memory) (n : Nat) : (m.readBytes n).length = n := by
  simp [readBytes]

@[simp] theorem Memory.getElem_readBytes (m : Memory) (n i : Nat) (h : i < (m.readBytes n).length) :
    (m.readBytes n)[i] = m.read i := by
  simp [readBytes]

/-- The bytes just written are the bytes read back. -/
theorem Memory.readBytes_writeBytes {m : Memory} (h : m.wf) (bs : List Byte) :
    (m.writeBytes 0 bs).readBytes bs.length = bs := by
  refine List.ext_getElem (by simp) fun i h1 h2 => ?_
  rw [getElem_readBytes, read_writeBytes h]
  simp [h2]

end Sys2Proof.Machine
end

