-- ==== Sys2Proof/Laws/PerInstr.lean ====
section
/-! SUPPORT. Statements about every command, one lemma per command. -/

namespace Sys2Proof.Laws

/-- Family `EncodeDecode`: decoding the encoding of a command gives the command back with nothing left
over, and the command is well formed (30_encoding R90 to R93). -/
def EncodeDecode.Statement (i : Instr) : Prop :=
  decode (encode i) = .ok (i, []) ∧ i.wellFormed = true

theorem EncodeDecode.mhxEnc : EncodeDecode.Statement .mhxEnc := ⟨rfl, rfl⟩
theorem EncodeDecode.mhxDec : EncodeDecode.Statement .mhxDec := ⟨rfl, rfl⟩
theorem EncodeDecode.hexEnc : EncodeDecode.Statement .hexEnc := ⟨rfl, rfl⟩
theorem EncodeDecode.hexDec : EncodeDecode.Statement .hexDec := ⟨rfl, rfl⟩
theorem EncodeDecode.crc16 : EncodeDecode.Statement .crc16 := ⟨rfl, rfl⟩
theorem EncodeDecode.aesEnc : EncodeDecode.Statement .aesEnc := ⟨rfl, rfl⟩
theorem EncodeDecode.aesDec : EncodeDecode.Statement .aesDec := ⟨rfl, rfl⟩
theorem EncodeDecode.blkStamp : EncodeDecode.Statement .blkStamp := ⟨rfl, rfl⟩
theorem EncodeDecode.blkSer : EncodeDecode.Statement .blkSer := ⟨rfl, rfl⟩
theorem EncodeDecode.blkEmit : EncodeDecode.Statement .blkEmit := ⟨rfl, rfl⟩
theorem EncodeDecode.create : EncodeDecode.Statement .create := ⟨rfl, rfl⟩
theorem EncodeDecode.createOvr : EncodeDecode.Statement .createOvr := ⟨rfl, rfl⟩
theorem EncodeDecode.emitOtp : EncodeDecode.Statement .emitOtp := ⟨rfl, rfl⟩
theorem EncodeDecode.regExport : EncodeDecode.Statement .regExport := ⟨rfl, rfl⟩
theorem EncodeDecode.recLoad : EncodeDecode.Statement .recLoad := ⟨rfl, rfl⟩
theorem EncodeDecode.recSave : EncodeDecode.Statement .recSave := ⟨rfl, rfl⟩

end Sys2Proof.Laws
end

