-- ==== Sys2Proof/Tests/Slice0.lean ====
section
/-! SUPPORT. The model's own tests, each a named theorem. Expected values are those of
95_test_vectors, or of a rule's own words; the comment names the place. The last part shows, for every
obligation with hypotheses, a state and operands that meet them. -/

namespace Sys2Proof.Tests

open Sys2Proof.Machine

-- One theorem at a time: each parallel theorem would take a thread with the checker's large stack.
set_option Elab.async false

/-! ## Helpers -/

/-- The state after a command that has a next state. -/
def after (i : Instr) (s : State) : Option State :=
  match exec i s with
  | .next t => some t
  | _ => none

/-- The state after a host action that has a next state. -/
def afterAct (a : HostAct) (s : State) : Option State :=
  match s.act a with
  | .next t => some t
  | _ => none

/-- The state after `n` ticks. -/
def afterTicks (n : Nat) (s : State) : Option State :=
  match s.ticks n with
  | .next t => some t
  | _ => none

/-- Reset, then `bs` in `DIN` with `DIN_LEN` its length. -/
def dinState (bs : List Byte) : State :=
  { State.reset with din := Memory.writeBytes [] 0 bs, dinLen := BitVec.ofNat 32 bs.length }

/-- Reset, then the two lengths written (the buffers all zero). -/
def lenState (din : Nat) (kin : BitVec 8) : State :=
  { State.reset with dinLen := BitVec.ofNat 32 din, kinLen := kin }

/-- Token A of 95_test_vectors 2.5 with the registers of a row. -/
def tokenA (counter : BitVec 16) (session : BitVec 8) (created lastUse : Time) (ponRand : BitVec 32) :
    Token :=
  { pubId := #v[0x22, 0x22, 0x01, 0x02, 0x03, 0x04]
    privId := #v[0xa1, 0xa2, 0xa3, 0xa4, 0xa5, 0xa6]
    key := #v[0, 1, 2, 3, 4, 5, 6, 7, 8, 9, 10, 11, 12, 13, 14, 15]
    counter, session, created, lastUse, ponRand }

/-- A token present, and the agents' next answers. -/
def ready (t : Token) (times : List Time) (draws : List (Option (BitVec 128))) : State :=
  { State.reset with
    token := t
    status := { State.reset.status with token := true }
    agents := { times, draws, timeCount := 0, drawCount := 0 } }

/-- No token, and the agents' next answers. -/
def fresh (times : List Time) (draws : List (Option (BitVec 128))) : State :=
  { State.reset with agents := { times, draws, timeCount := 0, drawCount := 0 } }

/-- The block operand registers of a row of 95_test_vectors 2.4. -/
def blockState (ctr : BitVec 16) (tstp : BitVec 24) (sess : BitVec 8) (rnd crc : BitVec 16) : State :=
  { State.reset with
    block := { uid := #v[0xa1, 0xa2, 0xa3, 0xa4, 0xa5, 0xa6], ctr, tstp, sess, rnd, crc } }

/-! ## Well-formedness: each check refuses an ill-formed term -/

/-- An access of 3 bytes is no container size (20_memory R70). -/
theorem test_wf_refuses_size_three : (HostAct.write 0 3 0).wellFormed = false := by decide
theorem test_wf_refuses_size_zero : (HostAct.read 8 0).wellFormed = false := by decide
/-- A 4-byte access at an odd address is not naturally aligned (20_memory R70). -/
theorem test_wf_refuses_misaligned_write : (HostAct.write 0x11 4 0).wellFormed = false := by decide
theorem test_wf_refuses_misaligned_read : (HostAct.read 0x3C 8).wellFormed = false := by decide
theorem test_wf_accepts_aligned : (HostAct.read 0x38 8).wellFormed = true := by decide
/-- A command has no operand, so there is no ill-formed command (30_encoding R90). -/
theorem test_wf_commands : Instr.all.all Instr.wellFormed = true := by decide
/-- The bus refuses what the check refuses: 3 bytes at offset `0x010`. -/
theorem test_bus_refuses_ill_formed : locate 0x010 3 = none := by decide +kernel

/-! ## Decoding: every word written out bit by bit, family above operation (30_encoding R90, R92) -/

theorem test_decode_mhxEnc : decode [0b00010000] = .ok (.mhxEnc, []) := rfl
theorem test_decode_mhxDec : decode [0b00010001] = .ok (.mhxDec, []) := rfl
theorem test_decode_hexEnc : decode [0b00010010] = .ok (.hexEnc, []) := rfl
theorem test_decode_hexDec : decode [0b00010011] = .ok (.hexDec, []) := rfl
theorem test_decode_crc16 : decode [0b00100000] = .ok (.crc16, []) := rfl
theorem test_decode_aesEnc : decode [0b00110000] = .ok (.aesEnc, []) := rfl
theorem test_decode_aesDec : decode [0b00110001] = .ok (.aesDec, []) := rfl
theorem test_decode_blkStamp : decode [0b01000000] = .ok (.blkStamp, []) := rfl
theorem test_decode_blkSer : decode [0b01000001] = .ok (.blkSer, []) := rfl
theorem test_decode_blkEmit : decode [0b01000010] = .ok (.blkEmit, []) := rfl
theorem test_decode_create : decode [0b01010000] = .ok (.create, []) := rfl
theorem test_decode_createOvr : decode [0b01010001] = .ok (.createOvr, []) := rfl
theorem test_decode_emitOtp : decode [0b01010010] = .ok (.emitOtp, []) := rfl
theorem test_decode_regExport : decode [0b01010011] = .ok (.regExport, []) := rfl
theorem test_decode_recLoad : decode [0b01100000] = .ok (.recLoad, []) := rfl
theorem test_decode_recSave : decode [0b01100001] = .ok (.recSave, []) := rfl

/-- The illegal codes of 95_test_vectors 2.7. -/
theorem test_decode_illegal :
    [0x00, 0x14, 0x21, 0x32, 0x43, 0x54, 0x62, 0x70, 0xFF].all
      (fun w => (decodeTableWord 8 w).isNone) = true := by decide

/-! ## Text codecs (95_test_vectors 2.1) -/

theorem test_mhxEnc_alphabet :
    (after .mhxEnc (dinState [0x01, 0x23, 0x45, 0x67, 0x89, 0xab, 0xcd, 0xef])).map
      (fun t => (t.dout.readBytes 17, t.doutLen)) =
    some (chars ['c', 'b', 'd', 'e', 'f', 'g', 'h', 'i', 'j', 'k', 'l', 'n', 'r', 't', 'u', 'v'] ++ [0],
      16) := by decide +kernel

/-- `BUF_CAP + 1` is too long whatever `BUF_CAP` is; here the largest length. -/
theorem test_mhxEnc_too_long : (after .mhxEnc (lenState 0xFFFFFFFF 0)).map (·.err) = some 0x82 := by
  have h : Config.bufCap < (lenState 0xFFFFFFFF 0).dinLen.toNat := by
    have := Config.bufCap_fits
    show _ < 0xFFFFFFFF
    omega
  simp only [after, exec, execMhxEnc, State.withDin]
  rw [if_pos (by simpa using h)]
  rfl

theorem test_mhxDec_upper_case :
    (after .mhxDec (dinState (chars ['C', 'B', 'D', 'E', 'F', 'G', 'H', 'I']))).map
      (fun t => (t.dout.readBytes 5, t.doutLen, t.err)) =
    some ([0x01, 0x23, 0x45, 0x67, 0x00], 4, 0) := by decide +kernel

theorem test_mhxDec_bad_character :
    (after .mhxDec (dinState (chars ['d', 'a']))).map (fun t => (t.err, t.status.toByte, t.doutLen)) =
    some (0x01, 0x06, 0) := by decide +kernel

theorem test_hexEnc_lower_case :
    (after .hexEnc (dinState [0x00, 0xff, 0xa5])).map (fun t => (t.dout.readBytes 6, t.doutLen)) =
    some (chars ['0', '0', 'f', 'f', 'a', '5'], 6) := by decide +kernel

theorem test_hexDec_mixed_case :
    (after .hexDec (dinState (chars ['0', '0', 'F', 'F', 'a', '5']))).map
      (fun t => (t.dout.readBytes 3, t.doutLen)) = some ([0x00, 0xff, 0xa5], 3) := by decide +kernel

theorem test_hexDec_no_prefix :
    (after .hexDec (dinState (chars ['0', 'x', '1', '2']))).map (·.err) = some 0x01 := by
  decide +kernel

/-! ## Checksum (95_test_vectors 2.2) -/

theorem test_crc16_digits :
    (after .crc16 (dinState (chars ['1', '2', '3', '4', '5', '6', '7', '8', '9']))).map (·.crcReg) =
    some 0x6F91 := by decide +kernel

/-- The complement appended high byte first does not give the residual. -/
theorem test_crc16_residual_order :
    (after .crc16 (dinState [0x22, 0x22, 0xd4, 0x1d])).map (·.crcReg) = some 0xF0B8 ∧
    (after .crc16 (dinState [0x22, 0x22, 0x1d, 0xd4])).map (·.crcReg) ≠ some 0xF0B8 := by
  decide +kernel

/-! ## Cipher adapter (95_test_vectors 2.3); the cipher is opaque, so only lengths and inversion -/

theorem test_aesEnc_short_key : (after .aesEnc (lenState 16 15)).map (·.err) = some 0x02 := by
  decide +kernel

theorem test_aesEnc_key_beyond_buffer : (after .aesEnc (lenState 16 33)).map (·.err) = some 0x82 := by
  decide +kernel

theorem test_aesDec_long_key : (after .aesDec (lenState 16 32)).map (·.err) = some 0x02 := by
  decide +kernel

/-! ## Block codec (95_test_vectors 2.4) -/

theorem test_blkStamp_row2 :
    (after .blkStamp (blockState 0x1234 0xABCDEF 0x56 0x789A 0x1234)).map (·.block.crc) =
    some 0x78A7 := by decide +kernel

theorem test_blkStamp_after_reset :
    (after .blkStamp State.reset).map (fun t => (t.block.crc, t.status.toByte)) =
    some (0xA96A, 0x02) := by decide +kernel

/-- `BLK_SER` does not stamp. -/
theorem test_blkSer_row1_unstamped :
    (after .blkSer (blockState 1 1 2 0xBEEF 0)).map (fun t => (t.dout.readBytes 16, t.doutLen)) =
    some ([0xa1, 0xa2, 0xa3, 0xa4, 0xa5, 0xa6, 0x01, 0x00, 0x01, 0x00, 0x00, 0x02, 0xef, 0xbe, 0x00,
      0x00], 16) := by decide +kernel

theorem test_blkEmit_row3_stamps :
    (after .blkEmit { blockState 0x7FFF 0xFFFFFE 0xFF 0xFFFF 0 with kinLen := 16 }).map
      (fun t => (t.block.crc, t.err)) = some (0xA0B9, 0) := by decide +kernel

theorem test_blkEmit_short_key :
    (after .blkEmit { blockState 1 1 2 0xBEEF 0 with kinLen := 15 }).map
      (fun t => (t.block.crc, t.doutLen, t.err)) = some (0, 0, 0x02) := by decide +kernel

/-! ## Token state machine (95_test_vectors 2.5) -/

theorem test_create_tokenA :
    (after .create (fresh [1700000000] [some 0x01020304, some 0xa1a2a3a4a5a6,
      some 0x000102030405060708090a0b0c0d0e0f, some 0x1234567B])).map
      (fun t => (t.token, t.status.toByte)) =
    some (tokenA 1 1 1700000000 1700000000 0x12345670, 0x12) := by decide +kernel

/-- The second draw fails. -/
theorem test_create_failed_draw :
    (after .create (fresh [5] [some 1, none, some 3])).map
      (fun t => (t.token, t.err, t.status.toByte)) = some (Token.zero, 0x03, 0x06) := by
  decide +kernel

theorem test_createOvr_all_supplied :
    (after .createOvr { fresh [2000] [some 0x4F, some 1] with
      ovr := { mask := 7, pubId := #v[0x22, 0x22, 0x01, 0x02, 0x03, 0x04]
               privId := #v[0xa1, 0xa2, 0xa3, 0xa4, 0xa5, 0xa6]
               key := #v[0, 1, 2, 3, 4, 5, 6, 7, 8, 9, 10, 11, 12, 13, 14, 15]
               initCtr := 100 } }).map (fun t => (t.token, t.agents.draws)) =
    some (tokenA 101 1 2000 2000 0x40, [some 1]) := by decide +kernel

theorem test_createOvr_last_initCtr :
    (after .createOvr { fresh [0] [some 1, some 2, some 3, some 4] with
      ovr := { Overrides.zero with initCtr := 0xFFFE } }).map (fun t => (t.token.counter, t.err)) =
    some (0xFFFF, 0) := by decide +kernel

/-- Row E4: wrap, then case B. -/
theorem test_emitOtp_row_E4 :
    (after .emitOtp (ready (tokenA 5 0xFF 1000 1003 0xAAAAAAA3) [1003]
      [some 0xDEADBEEF, some 0x1234])).map (fun t => (t.token, t.status.toByte)) =
    some (tokenA 6 1 1000 1003 0xDEADBEE1, 0x32) := by decide +kernel

/-- Row E12 up to the wait: `STATUS` and `SEQ` read as the vectors say, `SESSION` still 4. -/
theorem test_emitOtp_row_E12_waits :
    (after .emitOtp (ready (tokenA 1 4 1000 1500 0x27) [1500] [])).map
      (fun t => (t.status.toByte, t.seq, t.token.session)) = some (0x19, 0x08, 4) := by
  decide +kernel

/-- Row E10 just before step 7: Timestamp, and the stamped checksum of the image. -/
theorem test_ticks_row_E10_image :
    (afterTicks 7 { ready (tokenA 1 4 1000 1500 0x25) [1400] [some 0x0102] with
      flight := .latched 0x52 }).map (fun t =>
        match t.flight with
        | .emit .finish l => (l.ctr, l.sess, l.tstp, l.crc, l.ponRand, t.seq)
        | _ => (0, 0, 0, 0, 0, 0)) = some (1, 5, 0xCA0, 0xC823, 0x20, 0x07) := by decide +kernel

/-- Row E12 after the wait: two readings, the second ends it. -/
theorem test_wait_row_E12_ends :
    (afterTicks 10 { ready (tokenA 1 4 1000 1500 0x27) [1500, 1500, 1502] [some 0x0102] with
      flight := .latched 0x52 }).map (fun t =>
        match t.flight with
        | .emit .finish l => (l.tstp, l.crc, l.ponRand, l.lastUse)
        | _ => (0, 0, 0, 0)) = some (0xFD0, 0x10EE, 0x20, 1500) := by decide +kernel

theorem test_regExport_tokenA :
    (after .regExport (ready (tokenA 1 1 0 0 0) [] [])).map
      (fun t => (t.dout.readBytes 28, (t.dout.readBytes 60).drop 56, t.doutLen)) =
    some (chars ['d', 'd', 'd', 'd', 'c', 'b', 'c', 'd', 'c', 'e', 'c', 'f', ',', ' ',
      'a', '1', 'a', '2', 'a', '3', 'a', '4', 'a', '5', 'a', '6', ',', ' '],
      chars ['0', 'e', '0', 'f'], 60) := by decide +kernel

/-! ## Record (95_test_vectors 2.6) -/

/-- `counter: 7/counter:9`: the last wins, no final newline needed; and everything else is zero. -/
theorem test_recLoad_last_wins :
    (after .recLoad { dinState (chars ['c', 'o', 'u', 'n', 't', 'e', 'r', ':', ' ', '7'] ++ [0x0d, 0x0a]
        ++ chars ['c', 'o', 'u', 'n', 't', 'e', 'r', ':', '0', '9']) with
      agents := { times := [0], draws := [], timeCount := 0, drawCount := 0 } }).map
      (fun t => (t.token, t.status.toByte)) =
    some ({ Token.zero with counter := 9 }, 0x12) := by decide +kernel

/-- `session: 256` does not fit. -/
theorem test_recLoad_does_not_fit :
    (after .recLoad (dinState (chars ['s', 'e', 's', 's', 'i', 'o', 'n', ':', ' ', '2', '5', '6']))).map
      (fun t => (t.err, t.status.token)) = some (0x83, false) := by decide +kernel

/-- The all-zero token: 146 bytes, and the last line is `ponrand: 0`. -/
theorem test_recSave_zero :
    (after .recSave (ready Token.zero [] [])).map
      (fun t => (t.doutLen, (t.dout.readBytes 147).drop 135)) =
    some (146, chars ['p', 'o', 'n', 'r', 'a', 'n', 'd', ':', ' ', '0'] ++ [0x0a, 0x00]) := by
  decide +kernel

theorem test_recSave_without_token : (after .recSave State.reset).map (·.err) = some 0x81 := by
  decide +kernel

/-! ## Bus and control (20_memory R70, R73; 95_test_vectors 2.7) -/

/-- The map's rows as `locate` finds them. -/
theorem test_locate_rows :
    (locate 0x004 1, locate 0x038 8, locate 0x09C 4, locate 0x0BF 1, locate 0x038 4, locate 0x048 2) =
    (some (.scalar .status), some (.scalar .created), some (.scalar .fTstp),
      some (.byte .blkImg 15), none, none) := by decide +kernel

/-- Bits 31 to 24 of `F_TSTP` are dropped. -/
theorem test_fTstp_reserved_bits :
    (State.reset.writeScalar .fTstp 0xFFABCDEF).readScalar .fTstp = 0xABCDEF := by decide +kernel

/-- A `CMD` write while `EMIT_OTP` waits is dropped: one emission results, not two. -/
theorem test_cmd_dropped_while_waiting (s : State) (h : s.status.busy = true) :
    s.act (.write Config.base 1 0x52) = .next s := by
  have hp : busPlace (Config.base + 0) 1 = .next (.scalar .cmd) :=
    busPlace_offset (by unfold spaceSize; omega)
  rw [Nat.add_zero] at hp
  simp [State.act, State.hostWrite, hp, h]

/-- After reset the first `EMIT_OTP` fails with `NoToken`. -/
theorem test_step_runs_fetched_word :
    step (State.reset.withFetchWord 8 0x52) =
      .next ({ State.reset with flight := .latched 0x52 }.endedErr .noToken State.reset.agents) := by
  rfl

/-! ## A witness for the hypotheses of every obligation that has some

Where a statement has clauses over a range, the witnesses stand at its boundary values. -/

theorem bufCap_small {n : Nat} (h : n ≤ 256) : n ≤ Config.bufCap := Nat.le_trans h Config.bufCap_ge

/-- `DIN_LEN = BUF_CAP` fits and `DIN_LEN = BUF_CAP + 1` does not, whatever `BUF_CAP` is. -/
theorem witness_din_lengths :
    (lenState Config.bufCap 0).dinLen.toNat ≤ Config.bufCap ∧
    Config.bufCap < (lenState (Config.bufCap + 1) 0).dinLen.toNat := by
  have h := Config.bufCap_fits
  have g := Config.bufCap_ge
  constructor
  · exact Nat.mod_le _ _
  · show _ < (Config.bufCap + 1) % 2 ^ 32
    rw [Nat.mod_eq_of_lt (by omega)]
    omega

/-- `StepKeepsInvariant`, `BusyGateHolds`: a state in the wait, a host write pending, the invariant. -/
def waitState : State :=
  { ready (tokenA 1 4 1000 1500 0x27) [1500, 1502] [some 0x0102] with
    status := { busy := true, done := false, errf := false, wait := true, token := true, mustp := false }
    seq := 0x08
    flight := .emit .hold { (tokenA 1 5 1000 1500 0x27).locals with now := 1500 } }

theorem waitState_inv : waitState.Inv := by
  constructor
  case follows => exact ⟨.inl (by decide), rfl, fun _ => rfl, rfl, by decide⟩
  all_goals
    simp [waitState, ready, State.reset, Memory.wf, Memory.within, Flight.held, Flight.seq,
      EmitStage.seq, Flight.emitting, Flight.sound, errCodes]

/-- The same with other answers of the agents to come. -/
theorem waitState_inv_agents (a : Agents) : { waitState with agents := a }.Inv :=
  { waitState_inv with }

theorem witness_StepKeepsInvariant : waitState.Inv ∧ ∃ t, step waitState = .next t :=
  ⟨waitState_inv, _, rfl⟩

theorem witness_ResetEventIsTotal :
    { waitState with inputs := [.reset, .run] }.inputs = .reset :: [.run] := rfl

theorem witness_StepRunsTakenCommand :
    decode [0x61] = .ok (.recSave, []) ∧ Instr.recSave.wellFormed = true ∧
    { State.reset with flight := .latched 0x61 }.flight = .latched 0x61 ∧
    { State.reset with flight := .latched 0x61 }.inputs = [] ∧
    { State.reset with flight := .latched 0x61, inputs := [.run] }.inputs = .run :: [] :=
  ⟨rfl, rfl, rfl, rfl, rfl⟩

/-- A legal code at each end of the table, and the illegal ones beside them. -/
theorem witness_CmdWriteTakesTheCode :
    State.reset.status.busy = false ∧
    (0x10 : BitVec 64).setWidth 8 = Instr.mhxEnc.code ∧
    (0x61 : BitVec 64).setWidth 8 = Instr.recSave.code ∧
    (0x52 : BitVec 64).setWidth 8 = Instr.emitOtp.code ∧
    (∀ i : Instr, (0x0F : BitVec 64).setWidth 8 ≠ i.code) ∧
    (∀ i : Instr, (0x62 : BitVec 64).setWidth 8 ≠ i.code) := by
  refine ⟨rfl, rfl, rfl, rfl, ?_, ?_⟩ <;> intro i <;> cases i <;> decide

theorem witness_TextCodecLaws :
    mhxDec (chars ['D', 'v']) = .ok [0x2F] ∧ hexDec (chars ['F', '0']) = .ok [0xF0] ∧
    (chars ['c', 'v']).length % 2 = 0 ∧ (chars []).length % 2 = 0 := ⟨rfl, rfl, rfl, rfl⟩

theorem witness_MhxEncResult :
    State.reset.dout.wf ∧ (lenState Config.bufCap 0).dout.wf ∧
    (lenState 0 0).dinLen.toNat ≤ Config.bufCap :=
  ⟨Memory.wf_nil, Memory.wf_nil, Nat.zero_le _⟩

theorem witness_HexEncResult : (dinState [0xFF]).dout.wf ∧ (dinState [0xFF]).dinLen.toNat ≤ Config.bufCap :=
  ⟨Memory.wf_nil, bufCap_small (by decide)⟩

/-- A valid text, an odd length, a bad character. -/
theorem witness_MhxDecResult :
    (dinState (chars ['c', 'V'])).dout.wf ∧
    (dinState (chars ['c', 'V'])).dinLen.toNat ≤ Config.bufCap ∧
    (dinState (chars ['c', 'V'])).dinLen.toNat % 2 = 0 ∧
    (∀ i < (dinState (chars ['c', 'V'])).dinLen.toNat,
      aval ((dinState (chars ['c', 'V'])).din.read i) ≠ none) ∧
    (dinState (chars ['c'])).dinLen.toNat % 2 = 1 ∧
    (∃ i < (dinState (chars ['c', 'a'])).dinLen.toNat,
      aval ((dinState (chars ['c', 'a'])).din.read i) = none) := by
  refine ⟨Memory.wf_nil, bufCap_small (by decide), ?_⟩
  decide +kernel

theorem witness_HexDecResult :
    (dinState (chars ['0', 'F'])).dout.wf ∧
    (dinState (chars ['0', 'F'])).dinLen.toNat ≤ Config.bufCap ∧
    (dinState (chars ['0', 'F'])).dinLen.toNat % 2 = 0 ∧
    (∀ i < (dinState (chars ['0', 'F'])).dinLen.toNat,
      hval ((dinState (chars ['0', 'F'])).din.read i) ≠ none) ∧
    (dinState (chars ['0'])).dinLen.toNat % 2 = 1 ∧
    (∃ i < (dinState (chars ['0', 'g'])).dinLen.toNat,
      hval ((dinState (chars ['0', 'g'])).din.read i) = none) := by
  refine ⟨Memory.wf_nil, bufCap_small (by decide), ?_⟩
  decide +kernel

theorem witness_Crc16Result : (lenState 256 0).dinLen.toNat ≤ Config.bufCap :=
  bufCap_small (by decide)

/-- Both lengths 16; one off on each side; the key buffer full and one beyond. -/
theorem witness_AesEncResult :
    (lenState 16 16).dout.wf ∧ (lenState 16 16).kinLen = 16 ∧ (lenState 16 16).dinLen = 16 ∧
    (lenState 16 16).kin.readBytes 16 = (Vector.replicate 16 (0 : Byte)).toList ∧
    (lenState 16 16).din.readBytes 16 = (Vector.replicate 16 (0 : Byte)).toList ∧
    (lenState 16 15).kinLen ≠ 16 ∧ (lenState 16 32).kinLen.toNat ≤ 32 ∧ (lenState 17 16).dinLen ≠ 16 ∧
    (lenState 17 16).dinLen.toNat ≤ Config.bufCap ∧ 32 < (lenState 16 33).kinLen.toNat := by
  refine ⟨Memory.wf_nil, rfl, rfl, rfl, rfl, by decide, by decide, by decide,
    bufCap_small (by decide), by decide⟩

theorem witness_AesDecResult :
    (lenState 16 16).dout.wf ∧ (lenState 16 16).kinLen = 16 ∧ (lenState 16 16).dinLen = 16 ∧
    (lenState 15 16).dinLen ≠ 16 ∧ (lenState 15 16).dinLen.toNat ≤ Config.bufCap ∧
    (lenState 15 16).kinLen.toNat ≤ 32 := by
  refine ⟨Memory.wf_nil, rfl, rfl, by decide, bufCap_small (by decide), by decide⟩

theorem witness_BlkStampResult :
    ∃ t u, exec .blkStamp (blockState 1 1 2 0xBEEF 0) = .next t ∧ exec .blkStamp t = .next u :=
  ⟨_, _, rfl, rfl⟩

theorem witness_BlkSerResult : (blockState 1 1 2 0xBEEF 0).dout.wf := Memory.wf_nil

theorem witness_BlkEmitResult :
    (lenState 0 16).dout.wf ∧ (lenState 0 16).kinLen = 16 ∧
    (lenState 0 16).kin.readBytes 16 = (Vector.replicate 16 (0 : Byte)).toList ∧
    (lenState 0 15).kinLen ≠ 16 ∧ (lenState 0 17).kinLen ≠ 16 ∧ (lenState 0 32).kinLen.toNat ≤ 32 ∧
    32 < (lenState 0 33).kinLen.toNat := by
  refine ⟨Memory.wf_nil, rfl, rfl, by decide, by decide, by decide, by decide⟩

theorem witness_CreateResult :
    (fresh [7] [some 1, some 2, some 3, some 0x4F]).agents.times = 7 :: [] ∧
    (fresh [7] [some 1, some 2, some 3, some 0x4F]).agents.draws =
      some 1 :: some 2 :: some 3 :: some 0x4F :: [] := ⟨rfl, rfl⟩

/-- The two ends of `INITCTR`; all fields supplied, none, and one. -/
theorem witness_CreateOvrResult :
    let o (mask : BitVec 3) (init : BitVec 16) : Overrides :=
      { Overrides.zero with mask := mask, initCtr := init }
    (o 0 0xFFFF).initCtr = 0xFFFF ∧ (o 0 0xFFFE).initCtr ≠ 0xFFFF ∧ (o 0 0).initCtr ≠ 0xFFFF ∧
    (fresh [7] [some 9]).agents.draws = [] ++ [] ++ [] ++ some 9 :: [] ∧
    ((o 7 0).mask.getLsbD 0 = true ∧ (o 7 0).mask.getLsbD 1 = true ∧ (o 7 0).mask.getLsbD 2 = true) ∧
    (fresh [7] [some 1, some 2, some 3, some 9]).agents.draws =
      [some 1] ++ [some 2] ++ [some 3] ++ some 9 :: [] ∧
    ((o 0 0).mask.getLsbD 0 = false ∧ (o 0 0).mask.getLsbD 1 = false ∧
      (o 0 0).mask.getLsbD 2 = false) ∧
    (fresh [7] [some 2, some 3, some 9]).agents.draws =
      [] ++ [some 2] ++ [some 3] ++ some 9 :: [] ∧
    ((o 1 0).mask.getLsbD 0 = true ∧ (o 1 0).mask.getLsbD 1 = false) := by decide

theorem witness_FailedDrawCommitsNothing :
    (fresh [] [none]).agents.draws = ([] : List (BitVec 128)).map some ++ none :: [] ∧
    (fresh [] [some 1, some 2, some 3, none]).agents.draws =
      ([1, 2, 3] : List (BitVec 128)).map some ++ none :: [] ∧
    ([1, 2, 3] : List (BitVec 128)).length ≤ 3 ∧
    State.reset.ovr.initCtr ≠ 0xFFFF ∧
    ([1, 2, 3] : List (BitVec 128)).length + (State.reset.ovr.mask.getLsbD 0).toNat +
      (State.reset.ovr.mask.getLsbD 1).toNat + (State.reset.ovr.mask.getLsbD 2).toNat ≤ 3 ∧
    ([] : List (BitVec 128)).length + ((7 : BitVec 3).getLsbD 0).toNat +
      ((7 : BitVec 3).getLsbD 1).toNat + ((7 : BitVec 3).getLsbD 2).toNat ≤ 3 := by decide

/-- Step 1 without and with a wrap (`SESSION` `0xFE` and `0xFF`, `COUNTER` `0x7FFE`). -/
theorem witness_stepOne :
    stepOne (tokenA 1 0xFE 0 0 5) [] [] 1 0xFF 5 ∧
    stepOne (tokenA 0x7FFE 0xFF 0 0 5) [some 0x2F] [] 0x7FFF 1 0x20 := by
  refine ⟨.inl ⟨by decide, rfl, by decide, rfl, rfl⟩, .inr ⟨rfl, by decide, by decide, rfl, 0x2F, rfl, ?_⟩⟩
  decide

/-- Step 3 in case A and in case B at both ends of the nibble. -/
theorem witness_stepThree :
    stepThree 11 10 0x1F 11 0x10 ∧ stepThree 10 10 0x10 10 0x11 ∧ stepThree 10 10 0x16 10 0x17 := by
  refine ⟨.inl ⟨by decide, rfl, by decide⟩, .inr ⟨rfl, by decide, rfl, by decide⟩,
    .inr ⟨rfl, by decide, rfl, by decide⟩⟩

/-- The reading equal to `CREATED`, the least one that is not a rollback. -/
theorem witness_EmitOtpCompletes :
    let s := ready (tokenA 1 1 10 10 0x16) [10] [some 0xBEEF]
    s.dout.wf ∧ s.status.token = true ∧ s.agents.times = 10 :: [] ∧
    stepOne s.token s.agents.draws (some 0xBEEF :: []) 1 2 0x16 ∧
    stepThree 10 s.token.lastUse 0x16 10 0x17 ∧ s.token.created.toNat ≤ (10 : Time).toNat := by
  refine ⟨Memory.wf_nil, rfl, rfl, .inl ⟨by decide, rfl, by decide, rfl, rfl⟩,
    .inr ⟨rfl, by decide, rfl, by decide⟩, by decide⟩

/-- Nibble 7, the least that waits. -/
theorem witness_EmitOtpEntersTheWait :
    let s := ready (tokenA 1 1 10 10 0x17) [10] []
    s.status.token = true ∧ s.agents.times = 10 :: [] ∧ stepOne s.token s.agents.draws [] 1 2 0x17 ∧
    10 = s.token.lastUse ∧ 6 < (0x17 : BitVec 32).toNat % 16 := by
  refine ⟨rfl, rfl, .inl ⟨by decide, rfl, by decide, rfl, rfl⟩, rfl, by decide⟩

/-- A reading equal to `now`, and one above it. -/
theorem witness_WaitEndsAtALaterReading :
    waitState.Inv ∧ waitState.inputs = [] ∧
    (∃ l, waitState.flight = .emit .hold l ∧ waitState.agents.times = 1500 :: [1502] ∧
      (1500 : Time).toNat ≤ l.now.toNat ∧ l.now.toNat < (1501 : Time).toNat ∧
      waitState.token.created.toNat ≤ (1501 : Time).toNat ∧
      waitState.agents.draws = some 0x0102 :: [] ∧
      (0x20 : BitVec 32).toNat = l.ponRand.toNat / 16 * 16) :=
  ⟨waitState_inv, rfl, _, rfl, rfl, by decide, by decide, by decide, rfl, by decide⟩

/-- One reading equal to `now`, then a later one; and a time source that meets the fairness duty. -/
theorem witness_FairClockEndsTheWait :
    let fair := { waitState with agents := { waitState.agents with times := [BitVec.allOnes 64] } }
    (waitState.Inv ∧ waitState.inputs = [] ∧ (∃ l, waitState.flight = .emit .hold l ∧
      (∀ k < 1, waitState.agents.reading k ≤ l.now) ∧ l.now < waitState.agents.reading 1)) ∧
    fair.Inv ∧ fair.inputs = [] ∧ (∃ l, fair.flight = .emit .hold l ∧ l.now ≠ BitVec.allOnes 64) ∧
    fair.agents.advancing := by
  refine ⟨⟨waitState_inv, rfl, _, rfl, fun k hk => ?_, by decide⟩, waitState_inv_agents _, rfl,
    ⟨_, rfl, by decide⟩, fun t ht => ⟨0, ?_⟩⟩
  · rw [Nat.lt_one_iff.mp hk]; decide
  · show t.toNat < (BitVec.allOnes 64).toNat
    have := t.isLt
    have : t.toNat ≠ (BitVec.allOnes 64).toNat := fun h => ht (BitVec.eq_of_toNat_eq h)
    simp at *; omega

theorem witness_CounterExhaustedIsFinal :
    let s := ready (tokenA 0x7FFF 0xFF 0 0 0) [] []
    s.status.token = true ∧ s.token.session = 0xFF ∧ 0x7FFF ≤ s.token.counter.toNat ∧
    ∃ t, exec .emitOtp s = .next t := by
  refine ⟨rfl, rfl, by decide, _, rfl⟩

theorem witness_CommandsNeedAToken : State.reset.status.token = false := rfl

theorem witness_EmitOtpLaterErrors :
    let w := ready (tokenA 0x7FFE 0xFF 0 0 0) [] [none]
    let s := ready (tokenA 1 1 10 12 0x16) [9] [none]
    let u := ready (tokenA 1 1 10 12 0x16) [10] [none]
    (w.status.token = true ∧ w.token.session = 0xFF ∧ w.token.counter.toNat < 0x7FFF ∧
      w.agents.draws = none :: []) ∧
    (s.status.token = true ∧ s.agents.times = 9 :: [] ∧
      stepOne s.token s.agents.draws [none] 1 2 0x16 ∧ stepThree 9 s.token.lastUse 0x16 9 0x10 ∧
      (9 : Time).toNat < s.token.created.toNat) ∧
    (stepOne u.token u.agents.draws [none] 1 2 0x16 ∧ stepThree 10 u.token.lastUse 0x16 10 0x10 ∧
      u.token.created.toNat ≤ (10 : Time).toNat) ∧
    let h := { waitState with
      token := { waitState.token with created := 1502 }
      agents := { waitState.agents with times := [1501], draws := [none] } }
    h.status.token = true ∧ h.inputs = [] ∧ (∃ l, h.flight = .emit .hold l ∧
      l.now.toNat < (1501 : Time).toNat) ∧ h.agents.times = 1501 :: [] ∧
    (1501 : Time).toNat < h.token.created.toNat ∧
    waitState.token.created.toNat ≤ (1501 : Time).toNat ∧ h.agents.draws = none :: [] := by
  refine ⟨⟨rfl, rfl, by decide, rfl⟩,
    ⟨rfl, rfl, .inl ⟨by decide, rfl, by decide, rfl, rfl⟩, .inl ⟨by decide, rfl, by decide⟩, by decide⟩,
    ⟨.inl ⟨by decide, rfl, by decide, rfl, rfl⟩, .inl ⟨by decide, rfl, by decide⟩, by decide⟩,
    rfl, rfl, ⟨_, rfl, by decide⟩, rfl, by decide, by decide, rfl⟩

/-- The largest difference of two times, the least (equal times), and a time one period later. -/
theorem witness_TimestampIsExact :
    (0 : Time).toNat ≤ (0xFFFFFFFFFFFFFFFF : Time).toNat ∧ (5 : Time).toNat ≤ (5 : Time).toNat ∧
    (16777220 : Time).toNat = (5 : Time).toNat + 16777215 := by decide

/-- Two emissions in a row that succeed, the first one wrapping. -/
def twice : State :=
  ready (tokenA 5 0xFF 1000 1003 0xAAAAAAA3) [1003, 1003]
    [some 0xDEADBEEF, some 0x1234, some 0x5678]

/-- An emission held in its wait that the next reading ends. -/
def waitOver : State :=
  { waitState with agents := { times := [1502], draws := [some 1], timeCount := 0, drawCount := 0 } }

theorem waitOver_runs : ∃ t, runsEmit waitOver t ∧ t.completed ∧ t.err = 0 :=
  ⟨_, .inr ⟨waitState_inv_agents _, rfl, rfl⟩, ⟨rfl, rfl, rfl, rfl⟩, rfl⟩

/-- An emission that leaves the token that `waitOver` holds. -/
def beforeWait : State := ready (tokenA 1 3 1000 1500 0x26) [1500] [some 1]

/-- Two emissions at once; the first at once and the second after its wait; the first after its wait. -/
theorem witness_SuccessiveEmissionsDiffer :
    (twice.dout.wf ∧ ∃ t u, runsEmit twice t ∧ t.completed ∧ t.err = 0 ∧ t.dout.wf ∧
      runsEmit t u ∧ u.completed ∧ u.err = 0) ∧
    (beforeWait.dout.wf ∧ waitOver.dout.wf ∧ (∃ t, runsEmit beforeWait t ∧ t.completed ∧ t.err = 0 ∧
      waitOver.token = t.token) ∧ ∃ u, runsEmit waitOver u ∧ u.completed ∧ u.err = 0) ∧
    ∃ t u, runsEmit waitOver t ∧ t.completed ∧ t.err = 0 ∧ t.dout.wf ∧
      runsEmit { t with agents := { twice.agents with times := [1503] } } u ∧ u.completed ∧ u.err = 0 :=
  ⟨⟨Memory.wf_nil, _, _, .inl rfl, ⟨rfl, rfl, rfl, rfl⟩, rfl, Memory.wf_writeBytes Memory.wf_nil _ _,
      .inl rfl, ⟨rfl, rfl, rfl, rfl⟩, rfl⟩,
    ⟨Memory.wf_nil, Memory.wf_nil, ⟨_, .inl rfl, ⟨rfl, rfl, rfl, rfl⟩, rfl, rfl⟩, waitOver_runs⟩,
    _, _, .inr ⟨waitState_inv_agents _, rfl, rfl⟩, ⟨rfl, rfl, rfl, rfl⟩, rfl,
    Memory.wf_writeBytes Memory.wf_nil _ _, .inl rfl, ⟨rfl, rfl, rfl, rfl⟩, rfl⟩

/-- One emission that wraps, and one that does not. -/
theorem witness_OnlyAWrapChangesCounter :
    (∃ t, runsEmit twice t ∧ t.token.counter ≠ twice.token.counter ∧ t.completed ∧ t.err = 0) ∧
    (beforeWait.token.session ≠ 0xFF ∧ ∃ t, runsEmit beforeWait t ∧ t.completed ∧ t.err = 0) ∧
    waitOver.token.session ≠ 0xFF ∧ ∃ t, runsEmit waitOver t ∧ t.completed ∧ t.err = 0 :=
  ⟨⟨_, .inl rfl, by decide +kernel, ⟨rfl, rfl, rfl, rfl⟩, rfl⟩,
    ⟨by decide, _, .inl rfl, ⟨rfl, rfl, rfl, rfl⟩, rfl⟩, by decide, waitOver_runs⟩

theorem witness_EmitOtpKeepsWellFormed :
    let s := { ready (tokenA 0x7FFF 0xFE 10 10 0) [10] [some 1, some 2] with
      ovr := { Overrides.zero with initCtr := 0x7FFE, mask := 7 } }
    s.agents.times = 10 :: [] ∧ s.token.lastUse.toNat ≤ (10 : Time).toNat ∧
    (∃ t, exec .emitOtp s = .next t) ∧ s.WF ∧ (∃ t, exec .recSave s = .next t) ∧
    s.ovr.initCtr.toNat ≤ 0x7FFE ∧ (∃ t, exec .createOvr s = .next t ∧ t.err = 0) ∧
    s.clockInOrder (0 + 1) ∧
    waitOver.Inv ∧ waitOver.flight.held = true ∧ waitOver.WF ∧ ∃ t, waitOver.advance = .next t := by
  refine ⟨rfl, by decide, ⟨_, rfl⟩, ?_, ⟨_, rfl⟩, by decide, ⟨_, rfl, rfl⟩, ⟨?_, ?_⟩,
    waitState_inv_agents _, rfl, ?_, _, rfl⟩
  · constructor <;> decide
  · intro j k hj hk
    obtain rfl : j = k := by omega
    exact BitVec.le_refl _
  · intro k hk
    obtain rfl : k = 0 := by omega
    decide
  · constructor <;> decide

theorem witness_CounterCeilingHolds :
    let s := { ready (tokenA 0x7FFF 0xFE 10 10 0) [10] [some 1] with flight := .latched 0x52 }
    s.token.counter.toNat ≤ 0x7FFF ∧ (∀ st l, s.flight = .emit st l → l.ctr.toNat ≤ 0x7FFF) ∧
    s.flight ≠ .latched 0x51 ∧ s.flight ≠ .latched 0x60 ∧ (∃ t, s.advance = .next t) ∧
    ∃ t, s.tick = .next t := by
  refine ⟨by decide, fun st l h => (by cases h), by decide, by decide, ⟨_, rfl⟩, _, rfl⟩

/-- An emission at once, and one that ends after its wait. -/
theorem witness_ValidatorAcceptsEmission :
    twice.dout.wf ∧ (∃ t, exec .emitOtp twice = .next t ∧ t.completed ∧ t.err = 0) ∧
    waitOver.dout.wf ∧ waitOver.flight.held = true ∧
    ∃ t, waitOver.advance = .next t ∧ t.completed ∧ t.err = 0 :=
  ⟨Memory.wf_nil, ⟨_, rfl, ⟨rfl, rfl, rfl, rfl⟩, rfl⟩,
    Memory.wf_nil, rfl, _, rfl, ⟨rfl, rfl, rfl, rfl⟩, rfl⟩

theorem witness_RegExportResult :
    (ready (tokenA 1 1 0 0 0) [] []).dout.wf ∧ (ready (tokenA 1 1 0 0 0) [] []).status.token = true ∧
    State.reset.status.token = false := ⟨Memory.wf_nil, rfl, rfl⟩

/-- The largest value that fits 8 bits and the least that does not; the characters beside the digits. -/
theorem witness_DecimalRoundTrip :
    255 < 2 ^ 8 ∧ 2 ^ 8 ≤ 256 ∧ (decText 0).head? = some 0x30 ∧
    (∃ b ∈ chars ['/'], b.toNat < 0x30) ∧ (∃ b ∈ chars ['1', ':'], 0x39 < b.toNat) := by decide

theorem witness_RecSaveResult :
    (ready (tokenA 1 1 0 0 0) [] []).dout.wf ∧ (ready (tokenA 1 1 0 0 0) [] []).status.token = true ∧
    State.reset.status.token = false := ⟨Memory.wf_nil, rfl, rfl⟩

theorem witness_RecordLinesAreRead :
    (0x0A : Byte) ∉ chars ['a', ':'] ∧ (0x3A : Byte) ∉ chars ['n', 'o', 't', 'e'] ∧
    (∀ b ∈ [0x20] ++ [0x09] ++ [0x0D] ++ ([] : List Byte), b = 0x20 ∨ b = 0x09 ∨ b = 0x0D) ∧
    (0x3A : Byte) ∉ RecordKey.counter.name ∧
    (∀ x ∈ [RecordKey.counter.name, chars ['7']], ∀ b, x.head? = some b ∨ x.getLast? = some b →
      b ≠ 0x20 ∧ b ≠ 0x09 ∧ b ≠ 0x0D) ∧
    (∀ k : RecordKey, chars ['c', 'o', 'l', 'o', 'r'] ≠ k.name) ∧
    loadLine (chars ['c', 'o', 'l', 'o', 'r', ':']) Token.zero = .ok Token.zero ∧
    loadLine (chars ['c', 'o', 'u', 'n', 't', 'e', 'r', ':']) Token.zero = .error .badRecord := by
  refine ⟨by decide, by decide, by decide, by decide, ?_, ?_, rfl, rfl⟩
  · intro x hx b hb
    rcases List.mem_cons.mp hx with rfl | hx
    · rcases hb with hb | hb <;> cases hb <;> decide
    · rcases List.mem_singleton.mp hx with rfl
      rcases hb with hb | hb <;> cases hb <;> decide
  · intro k; cases k <;> decide

/-- A value of the right size, one byte short, of odd length; a number and an empty text. -/
theorem witness_RecordValuesConvert :
    mhxDec (chars ['c', 'c', 'c', 'c', 'c', 'c', 'c', 'c', 'c', 'c', 'c', 'v']) =
      .ok (#v[0, 0, 0, 0, 0, 0x0F] : Bytes 6).toList ∧
    (∃ b, hexDec (chars ['0', '0', '0', '0', '0', '0', '0', '0', '0', '0']) = .ok b ∧ b.length ≠ 6) ∧
    hexDec (chars ['0']) = .error .invalidEncoding ∧
    parseDec 8 (chars ['2', '5', '5']) = .ok 255 ∧ parseDec 8 [] = .error .badRecord :=
  ⟨rfl, ⟨_, rfl, by decide⟩, rfl, rfl, rfl⟩

/-- `lastuse` equal to the reading, one above it, and a text that does not parse. -/
theorem witness_RecLoadResult :
    let at1 := chars ['l', 'a', 's', 't', 'u', 's', 'e', ':', '1']
    let bad := chars ['l', 'a', 's', 't', 'u', 's', 'e', ':']
    (dinState at1).dinLen.toNat ≤ Config.bufCap ∧
    parseRecord ((List.range (dinState at1).dinLen.toNat).map (dinState at1).din.read) =
      .ok { Token.zero with lastUse := 1 } ∧
    (1 : Time).toNat ≤ (1 : Time).toNat ∧ (0 : Time).toNat < (1 : Time).toNat ∧
    { dinState at1 with agents := { times := [1], draws := [], timeCount := 0, drawCount := 0 } }.agents.times
      = 1 :: [] ∧
    parseRecord ((List.range (dinState bad).dinLen.toNat).map (dinState bad).din.read) =
      .error .badRecord :=
  ⟨bufCap_small (by decide), rfl, Nat.le_refl _, by decide, rfl, rfl⟩

/-- The all-zero token: its record, loaded from reset at the time 0 of its `LASTUSE`. -/
theorem witness_SaveLoadRoundTrip :
    let s := ready Token.zero [] []
    s.status.token = true ∧ s.dout.wf ∧ ∃ t, exec .recSave s = .next t ∧
      let s' := { fresh [0] [] with dinLen := t.doutLen, din := t.dout }
      s'.dinLen = t.doutLen ∧
      s'.din.readBytes t.doutLen.toNat = t.dout.readBytes t.doutLen.toNat ∧
      s'.agents.times = 0 :: [] ∧ s.token.lastUse.toNat ≤ (0 : Time).toNat :=
  have ⟨t, ht⟩ : ∃ t, exec .recSave (ready Token.zero [] []) = .next t := ⟨_, rfl⟩
  ⟨rfl, Memory.wf_nil, t, ht, rfl, rfl, rfl, by decide⟩

/-- A command without a token, and an `EMIT_OTP` whose draw after the wait fails. -/
theorem witness_ErrorEntryKeepsState :
    let held := { waitState with agents := { waitState.agents with times := [1501], draws := [none] } }
    (∃ t, exec .emitOtp State.reset = .next t ∧ t.status.errf = true) ∧
    held.flight.held = true ∧ held.status.errf = false ∧
    ∃ t, held.advance = .next t ∧ t.status.errf = true :=
  ⟨⟨_, rfl, rfl⟩, rfl, rfl, _, rfl, rfl⟩

theorem witness_WritersOfTheToken :
    (∃ t, exec .blkSer State.reset = .next t) ∧ (∃ t, exec .emitOtp twice = .next t) ∧
    Instr.create ∈ [Instr.crc16, .blkStamp, .create, .createOvr, .recLoad] :=
  ⟨⟨_, rfl⟩, ⟨_, rfl⟩, by decide⟩

theorem witness_SecretsAndTokenFlagPersist :
    let s := { twice with flight := .latched 0x52 }
    (∃ t, step s = .next t) ∧ s.inputs.head? ≠ some .reset ∧ s.status.token = true ∧
    s.flight ≠ .latched 0x50 ∧ s.flight ≠ .latched 0x51 ∧ s.flight ≠ .latched 0x60 :=
  ⟨⟨_, rfl⟩, by decide, rfl, by decide, by decide, by decide⟩

/-- In the wait: a move that leaves the command held, and a host write. -/
theorem witness_BusyGateHolds :
    waitState.Inv ∧ waitState.status.busy = true ∧
    (∃ t, step waitState = .next t ∧ t.status.busy = true) ∧
    { waitState with inputs := [.write (Config.base + 0x02C) 1 0] }.inputs =
      .write (Config.base + 0x02C) 1 0 :: [] :=
  ⟨waitState_inv, rfl, ⟨_, rfl, rfl⟩, rfl⟩

theorem witness_HostWritesTheMap : State.reset.status.busy = false := rfl

/-- Gaps of one and of eight bytes, the last before `DIN`; a part of a scalar, several bytes of an array, a
size and an alignment that no access has. -/
theorem witness_OtherBusAccesses :
    let s := State.reset
    ¬ meetsRow s 0x001 1 ∧ ¬ meetsRow s 0x036 2 ∧ ¬ meetsRow s 0xFF8 8 ∧
    0xFF8 < 0x1000 + 3 * Config.bufCap ∧
    (meetsRow s 0x011 1 ∧ (∀ row ∈ scalarView s, ¬ (0x011 = row.1 ∧ 1 = row.2.1)) ∧
      ∀ row ∈ bytesView s, ¬ (row.1 ≤ 0x011 ∧ 0x011 < row.1 + row.2.1)) ∧
    (meetsRow s 0x048 8 ∧ ∀ row ∈ scalarView s, ¬ (0x048 = row.1 ∧ 8 = row.2.1)) ∧
    3 ∉ [1, 2, 4, 8] ∧ 0x012 % 4 ≠ 0 ∧
    Config.base + 0x1000 + 3 * Config.bufCap ≤ Config.base + 0x1000 + 3 * Config.bufCap := by
  simp [meetsRow, mapRows, scalarView, bytesView]
  omega

theorem witness_TicksReachTheRun : { twice with flight := .latched 0x52 }.flight = .latched 0x52 := rfl

/-- At the first step, where it goes on and where it fails, at the last step, and in the wait. -/
theorem witness_SequencerStepsAscend :
    let at1 := { twice with seq := 0x01, flight := .emit .advance twice.token.locals }
    let at7 := { twice with seq := 0x07, flight := .emit .finish twice.token.locals }
    (at1.seq = EmitStage.advance.seq ∧ ∃ t, at1.tick = .next t) ∧
    (at7.seq = EmitStage.finish.seq ∧ ∃ t, at7.tick = .next t) ∧
    (waitState.seq = EmitStage.hold.seq ∧ ∃ t, waitState.tick = .next t) :=
  ⟨⟨rfl, _, rfl⟩, ⟨rfl, _, rfl⟩, rfl, _, rfl⟩

end Sys2Proof.Tests
end

/-! PROOFS. Reset: what it leaves, and that the invariant holds there (10_state R36). -/

namespace Sys2Proof.Machine

/-- Settles O3: the reset state is a literal, so each of its registers is read off; the reset event
replaces every field but the three that the statement puts back. -/
theorem resetLeavesZero : Obligations.ResetLeavesZero := by
  unfold Obligations.ResetLeavesZero
  exact ⟨rfl, rfl, rfl, fun _ => ⟨rfl, rfl, rfl⟩, rfl, rfl, rfl, rfl, rfl, rfl, rfl, rfl, rfl,
    fun s => ⟨s.resetEvent, rfl, rfl, rfl⟩⟩

end Sys2Proof.Machine

/-! PROOFS. Which command writes which register (10_state R23, R24, R26 to R28). -/

namespace Sys2Proof.Machine

/-- The registers that no command writes: the override registers, the two operand buffers, and the
model's own lists (10_state R26, R27). -/
theorem CmdEnd.operands_kept {i : Instr} {s t : State} (c : CmdEnd i s t) :
    t.ovr = s.ovr ∧ t.din = s.din ∧ t.dinLen = s.dinLen ∧ t.kin = s.kin ∧ t.kinLen = s.kinLen ∧
      t.inputs = s.inputs ∧ t.busData = s.busData := by
  cases c <;> subst t <;> exact ⟨rfl, rfl, rfl, rfl, rfl, rfl, rfl⟩

/-- The token registers after a command that does not replace the token: `EMIT_OTP` commits four of them,
any other leaves all eight (10_state R23). -/
theorem CmdEnd.token_cases {i : Instr} {s t : State} (c : CmdEnd i s t)
    (hi : i ∉ [Instr.create, .createOvr, .recLoad]) :
    t.token = s.token ∨
    (i = .emitOtp ∧ ∃ l : EmitLocals, t.token = { s.token with
      counter := l.ctr, session := l.sess, lastUse := l.lastUse, ponRand := l.ponRand }) := by
  cases c with
  | failed _ _ _ h => subst h; exact .inl rfl
  | held _ _ _ _ _ h => subst h; exact .inl rfl
  | done _ _ _ _ _ _ _ _ token _ _ _ h =>
    subst h
    cases token with
    | none _ ht _ => exact .inl ht
    | saved _ ht _ => exact .inl ht
    | loaded hl _ => exact absurd (by simp at hl ⊢; tauto) hi
    | emitted he l _ _ ht _ => exact .inr ⟨he, l, ht⟩

/-- `CRCREG`, the block operand registers and `DOUT` after a command (10_state R24, R27, R28). -/
theorem CmdEnd.results_kept {i : Instr} {s t : State} (c : CmdEnd i s t) :
    (i ≠ .crc16 → t.crcReg = s.crcReg) ∧
    (i ∉ [Instr.blkStamp, .blkEmit] → t.block = s.block) ∧
    t.block = { s.block with crc := t.block.crc } ∧
    (i ∈ [Instr.crc16, .blkStamp, .create, .createOvr, .recLoad] →
      t.dout = s.dout ∧ t.doutLen = s.doutLen) := by
  cases c with
  | failed _ _ _ h => subst h; exact ⟨fun _ => rfl, fun _ => rfl, rfl, fun _ => ⟨rfl, rfl⟩⟩
  | held _ _ _ _ _ h => subst h; exact ⟨fun _ => rfl, fun _ => rfl, rfl, fun _ => ⟨rfl, rfl⟩⟩
  | done _ crc _ _ _ _ _ _ _ writesCrc writesReg silent h =>
    subst h
    refine ⟨writesReg, fun hi => ?_, rfl, silent⟩
    show { s.block with crc := crc } = s.block
    rw [writesCrc hi]

/-- Settles O53, from the three ways a command ends (`exec_cases`). -/
theorem writersOfTheToken : Obligations.WritersOfTheToken := by
  unfold Obligations.WritersOfTheToken
  intro i s t ht
  obtain ⟨t', ht', c⟩ := exec_cases i s
  obtain rfl : t' = t := by rw [ht'] at ht; cases ht; rfl
  obtain ⟨hovr, hdin, hdinLen, hkin, hkinLen, hinputs, hbus⟩ := c.operands_kept
  obtain ⟨hcrcReg, hblock, hcrc, hdout⟩ := c.results_kept
  refine ⟨fun h1 h2 h3 => ?_, hovr, hdin, hdinLen, hkin, hkinLen, hinputs, hbus, hcrcReg,
    fun h1 h2 => hblock (by simp [h1, h2]), hcrc, hdout⟩
  rcases c.token_cases (by simp [h1, h2, h3]) with htok | ⟨hemit, l, htok⟩
  · simp [htok]
  · simp [htok, hemit]

end Sys2Proof.Machine

/-! PROOFS. Everything one move of the sequencer inside `EMIT_OTP` can do (44_state_machine R200, R213). -/

namespace Sys2Proof.Machine

/-- `WAIT` after a move of the sequencer from one stage to another: set as the wait is entered, cleared as
it is left, else as it was (10_state R30). -/
def EmitStage.waitAfter (st st' : EmitStage) (w : Bool) : Bool :=
  if st' = .hold then (if st = .hold then w else true) else if st = .hold then false else w

/-- Everything one move of an `EMIT_OTP` that stands at stage `st` with local values `l` can do: go to a
successor stage, end with an error of its step, or complete at the last step. -/
inductive EmitTick (s : State) (st : EmitStage) (l : EmitLocals) (t : State) : Prop where
  | moved (st' : EmitStage) (l' : EmitLocals) (a : Agents) (succ : (st, st') ∈ stageSteps)
      (follows : l.follows s.token st → l'.follows s.token st')
      (text : st' = .finish → l'.text.length = 32)
      (h : t = ({ s with
        agents := a
        status := { s.status with wait := st.waitAfter st' s.status.wait } } : State).toStage st' l')
  | failed (e : CmdError) (a : Agents) (he : (st, e) ∈ stageErrors) (h : t = s.endedErr e a)
  | done (hst : st = .finish) (h : t = s.emitFinish l)

/-- A move that draws ends with `RandomSourceFailure`, or does what it does with the drawn bits. -/
theorem EmitTick.withDraw {s : State} {st : EmitStage} {l : EmitLocals} {n : Nat}
    {k : BitVec n → State → State} (he : (st, .randomSourceFailure) ∈ stageErrors)
    (hk : ∀ v, EmitTick s st l (k v { s with agents := s.agents.answer.2 })) :
    EmitTick s st l (s.withDraw n k) := by
  rcases State.withDraw_cases n s k with ⟨v, -, e⟩ | ⟨-, e⟩
  · rw [e]; exact hk _
  · rw [e]; exact .failed .randomSourceFailure _ he rfl

/-- Step 1 (44_state_machine R201): the pair moves on, with a draw when the session wraps. -/
theorem EmitTick.advance (s : State) (l : EmitLocals) :
    EmitTick s .advance l (s.emitAdvance l) := by
  unfold State.emitAdvance
  split
  · rename_i wraps
    split
    · exact .failed .counterExhausted s.agents (by decide) rfl
    · rename_i low
      refine .withDraw (by decide) fun pr => .moved .clock _ _ (by decide) ?_ nofun rfl
      rintro ⟨hctr, hsess, hlast, -⟩
      rw [hctr] at low
      rw [hsess] at wraps
      exact ⟨.inr ⟨wraps, BitVec.not_le.mp low, by rw [hctr], rfl⟩, hlast, absurd wraps⟩
  · rename_i noWrap
    refine .moved .clock _ s.agents (by decide) ?_ nofun rfl
    rintro ⟨hctr, hsess, hlast, hpon⟩
    rw [hsess] at noWrap
    exact ⟨.inl ⟨noWrap, hctr, by rw [hsess]⟩, hlast, fun _ => hpon⟩

/-- Step 2 (44_state_machine R205). -/
theorem EmitTick.clock (s : State) (l : EmitLocals) : EmitTick s .clock l (s.emitClock l) :=
  .moved .collide { l with now := s.agents.now.1 } s.agents.now.2 (by decide) id nofun rfl

/-- Step 3 (44_state_machine R206): the wait of case C, or step 4 by case B or case A. -/
theorem EmitTick.collide (s : State) (l : EmitLocals) :
    EmitTick s .collide l (s.emitCollide l) := by
  unfold State.emitCollide
  split
  · rename_i same
    split
    · rename_i full
      refine .moved .hold _ s.agents (by decide) ?_ nofun rfl
      rintro ⟨pair, hlast, hpon⟩
      exact ⟨pair, hlast, hpon, same.trans hlast, full⟩
    · rename_i room
      refine .moved .stamp _ s.agents (by decide) ?_ nofun rfl
      rintro ⟨pair, hlast, hpon⟩
      exact ⟨pair, .inl hlast, _, hpon, .inr ⟨BitVec.not_lt.mp room, rfl⟩⟩
  · refine .moved .stamp _ s.agents (by decide) ?_ nofun rfl
    rintro ⟨pair, -, hpon⟩
    exact ⟨pair, .inr rfl, _, hpon, .inl rfl⟩

/-- The wait (44_state_machine R208): a later reading ends it, any other leaves the command held. -/
theorem EmitTick.hold {s : State} {l : EmitLocals} (hf : s.flight = .emit .hold l)
    (hq : s.seq = EmitStage.hold.seq) : EmitTick s .hold l (s.emitHold l) := by
  unfold State.emitHold State.withNow
  simp only
  split
  · refine .moved .collideEnd _ s.agents.now.2 (by decide) ?_ nofun rfl
    rintro ⟨pair, hlast, hpon, -, -⟩
    exact ⟨pair, hlast, hpon⟩
  · refine .moved .hold l s.agents.now.2 (by decide) id nofun ?_
    rw [State.toStage, ← hf, ← hq]
    rfl

/-- The end of step 3 after the wait (44_state_machine R209). -/
theorem EmitTick.collideEnd (s : State) (l : EmitLocals) :
    EmitTick s .collideEnd l (s.emitCollideEnd l) := by
  refine .moved .stamp _ s.agents (by decide) ?_ nofun rfl
  rintro ⟨pair, hlast, hpon⟩
  exact ⟨pair, .inl hlast, _, hpon, .inl rfl⟩

/-- Step 4 (44_state_machine R210). -/
theorem EmitTick.stamp (s : State) (l : EmitLocals) : EmitTick s .stamp l (s.emitStamp l) := by
  unfold State.emitStamp
  split
  · exact .failed .clockRollback s.agents (by decide) rfl
  · exact .moved .random { l with tstp := timestamp l.now s.token.created l.ponRand } s.agents
      (by decide) id nofun rfl

/-- Step 5 (44_state_machine R211). -/
theorem EmitTick.random (s : State) (l : EmitLocals) : EmitTick s .random l (s.emitRandom l) :=
  .withDraw (by decide) fun r => .moved .build { l with rnd := r } _ (by decide) id nofun rfl

/-- A register file of `n` bytes encodes to `2 * n` characters (40_text_codecs R121). -/
theorem length_mhxEnc_toList {n : Nat} (v : Bytes n) : (mhxEnc v.toList).length = 2 * n := by
  rw [mhxEnc, length_encodeText, Vector.length_toList]

/-- Step 6 (44_state_machine R211): a key register has 16 bytes, so the text of 32 characters is
answered and no error. -/
theorem EmitTick.build (s : State) (l : EmitLocals) : EmitTick s .build l (s.emitBuild l) := by
  rw [State.emitBuild, emitBlock_key]
  refine .moved .finish _ s.agents (by decide) ?follows (fun _ => ?text) rfl
  case follows => exact id
  case text => exact length_mhxEnc_toList _

/-- Everything a tick of an `EMIT_OTP` in flight can do. -/
theorem State.tick_cases {s t : State} {st : EmitStage} {l : EmitLocals}
    (hf : s.flight = .emit st l) (hq : s.seq = st.seq) (ht : s.tick = .next t) :
    EmitTick s st l t := by
  cases st <;> simp only [State.tick, State.emitMove, hf, Host.Outcome.next.injEq] at ht <;>
    subst ht
  case advance => exact .advance s l
  case clock => exact .clock s l
  case collide => exact .collide s l
  case hold => exact .hold hf hq
  case collideEnd => exact .collideEnd s l
  case stamp => exact .stamp s l
  case random => exact .random s l
  case build => exact .build s l
  case finish => exact .done rfl rfl

/-- Settles O60, from everything a tick can do. -/
theorem sequencerStepsAscend : Obligations.SequencerStepsAscend := by
  unfold Obligations.SequencerStepsAscend
  intro s t st l hf hq ht
  cases State.tick_cases hf hq ht with
  | moved st' l' a succ _ _ h =>
    subst h
    exact .inr (.inr ⟨st', l', rfl, succ, rfl, rfl, rfl⟩)
  | failed e a he h =>
    subst h
    exact .inr (.inl ⟨e, he, rfl⟩)
  | done hst h =>
    subst h
    exact .inl ⟨hst, ⟨rfl, rfl, rfl, rfl⟩, rfl, rfl⟩

end Sys2Proof.Machine

/-! PROOFS. The invariant in two layers: the buffers and `MUSTP`, of which a command in flight says
nothing, and the control registers of a command in flight. -/

namespace Sys2Proof.Machine

/-- The part of `State.Inv` that speaks of no control register but `MUSTP`. -/
structure State.DataInv (s : State) : Prop where
  dinWf : s.din.wf
  kinWf : s.kin.wf
  doutWf : s.dout.wf
  dinWithin : s.din.within Config.bufCap
  kinWithin : s.kin.within 32
  doutWithin : s.dout.within (2 * Config.bufCap)
  doutLen : s.doutLen.toNat ≤ 2 * Config.bufCap
  mustp : s.status.mustp = true → s.status.token = true

/-- `State.DataInv`, and the indications as the start of a command leaves them (10_state R30, R32). -/
structure State.Running (s : State) : Prop extends s.DataInv where
  isBusy : s.status.busy = true
  notDone : s.status.done = false
  noErrf : s.status.errf = false
  noErr : s.err = 0

theorem State.Inv.data {s : State} (h : s.Inv) : s.DataInv := { h with }

theorem State.Inv.running {s : State} (h : s.Inv) (hf : s.flight ≠ .idle) : s.Running :=
  have busy := h.busy.mpr hf
  have ⟨done, errf, err⟩ := h.notDone busy
  { h.data with isBusy := busy, notDone := done, noErrf := errf, noErr := err }

theorem State.Inv.wait_of_idle {s : State} (h : s.Inv) (hf : s.flight = .idle) :
    s.status.wait = false := by rw [h.wait, hf]; rfl

theorem State.Inv.wait_of_latched {s : State} {v : Byte} (h : s.Inv) (hf : s.flight = .latched v) :
    s.status.wait = false := by rw [h.wait, hf]; rfl

/-- The invariant of a block with nothing in flight. -/
theorem State.DataInv.inv_of_idle {s : State} (h : s.DataInv) (flight : s.flight = .idle)
    (busy : s.status.busy = false) (wait : s.status.wait = false) (seq : s.seq = 0)
    (errf : s.status.errf = true ↔ s.err ≠ 0) (errCode : s.err ∈ errCodes) : s.Inv :=
  { h with
    busy := by simp [busy, flight]
    wait := by rw [wait, flight]; rfl
    seq := by rw [seq, flight]; rfl
    notDone := by simp [busy]
    errf := errf
    errCode := errCode
    emitting := by simp [flight, Flight.emitting]
    sound := by rw [flight]; trivial
    follows := by rw [flight]; trivial }

/-- The invariant of a block with a command in flight. -/
theorem State.Running.inv {s : State} (h : s.Running) (flight : s.flight ≠ .idle)
    (wait : s.status.wait = s.flight.held) (seq : s.seq = s.flight.seq)
    (emitting : s.flight.emitting = true → s.status.token = true) (sound : s.flight.sound)
    (follows : s.flight.follows s.token) : s.Inv :=
  { h.toDataInv with
    busy := by simp [h.isBusy, flight]
    wait := wait
    seq := seq
    notDone := fun _ => ⟨h.notDone, h.noErrf, h.noErr⟩
    errf := by simp [h.noErrf, h.noErr]
    errCode := by rw [h.noErr]; decide
    emitting := emitting
    sound := sound
    follows := follows }

/-- Settles O4: every buffer is empty and nothing is in flight. -/
theorem resetHasInvariant : Obligations.ResetHasInvariant := by
  unfold Obligations.ResetHasInvariant
  have data : State.reset.DataInv :=
    { dinWf := Memory.wf_nil, kinWf := Memory.wf_nil, doutWf := Memory.wf_nil
      dinWithin := List.forall_mem_nil _, kinWithin := List.forall_mem_nil _
      doutWithin := List.forall_mem_nil _, doutLen := Nat.zero_le _
      mustp := fun h => nomatch h }
  exact data.inv_of_idle rfl rfl rfl rfl (by decide) (by decide)

/-! ### What the shared operations keep -/

/-- Starting a command clears the indications of the one before (60_exceptions R274). -/
theorem State.DataInv.begin {s : State} (h : s.DataInv) (q : BitVec 8) : (s.begin q).Running :=
  { h with isBusy := rfl, notDone := rfl, noErrf := rfl, noErr := rfl }

/-- A result within the buffer keeps the form and the capacity of `DOUT` (10_state R27). -/
theorem State.DataInv.putResult {s : State} (h : s.DataInv) {bs : List Byte}
    (fits : bs.length ≤ 2 * Config.bufCap) : (s.putResult bs).DataInv :=
  { h with
    doutWf := Memory.wf_writeBytes h.doutWf 0 bs
    doutWithin := Memory.within_writeBytes h.doutWithin (by omega)
    doutLen := by
      rw [State.putResult_doutLen, BitVec.toNat_ofNat]
      exact Nat.le_trans (Nat.mod_le _ _) fits }

theorem State.Running.putResult {s : State} (h : s.Running) {bs : List Byte}
    (fits : bs.length ≤ 2 * Config.bufCap) : (s.putResult bs).Running :=
  { h.toDataInv.putResult fits with
    isBusy := h.isBusy, notDone := h.notDone, noErrf := h.noErrf, noErr := h.noErr }

theorem Answered.data {s : State} {dout : Memory} {len : BitVec 32} (a : Answered s dout len)
    (h : s.DataInv) : State.DataInv { s with dout := dout, doutLen := len } := by
  cases a with
  | untouched hd hl => subst hd hl; exact h
  | result bs fits hd hl => subst hd hl; exact h.putResult fits

/-- A completion keeps the invariant, unless `WAIT` is left set (log 16). -/
theorem State.Running.complete {s : State} (h : s.Running) (wait : s.status.wait = false) :
    s.complete.Inv :=
  State.DataInv.inv_of_idle { h.toDataInv with } rfl rfl wait rfl (by simp [h.noErrf, h.noErr])
    (by rw [State.complete_err, h.noErr]; decide)

/-- The block raises every error but the one of the file system (60_exceptions R266). -/
theorem CmdError.code_mem_errCodes {e : CmdError} (he : e ≠ .persistenceIOFailure) :
    e.code ∈ errCodes := by
  cases e
  case persistenceIOFailure => exact absurd rfl he
  all_goals decide

theorem CmdError.code_ne_zero (e : CmdError) : e.code ≠ 0 := by cases e <;> decide

/-- The error entry keeps the invariant (60_exceptions R270). -/
theorem State.DataInv.endedErr {s : State} (h : s.DataInv) {e : CmdError}
    (he : e ≠ .persistenceIOFailure) (a : Agents) : (s.endedErr e a).Inv :=
  State.DataInv.inv_of_idle { h with } rfl rfl rfl rfl
    (iff_of_true rfl e.code_ne_zero) (CmdError.code_mem_errCodes he)

/-- Neither `WAIT` nor the agents matter to a command in flight. -/
theorem State.Running.with_wait_agents {s : State} (h : s.Running) (w : Bool) (a : Agents) :
    State.Running { s with agents := a, status := { s.status with wait := w } } := { h with }

theorem Flight.held_emit (st : EmitStage) (l : EmitLocals) :
    (Flight.emit st l).held = decide (st = .hold) := by
  cases st <;> rfl

/-- A stage of `EMIT_OTP` keeps the invariant when its local values follow from the token registers. -/
theorem State.Running.toStage {s : State} (h : s.Running) {st : EmitStage} {l : EmitLocals}
    (token : s.status.token = true) (wait : s.status.wait = decide (st = .hold))
    (text : st = .finish → l.text.length = 32) (follows : l.follows s.token st) :
    (s.toStage st l).Inv := by
  refine State.Running.inv { h with } (by simp) ?_ rfl (fun _ => token) ?_ follows
  · rw [State.toStage_status, State.toStage_flight, wait, Flight.held_emit]
  · cases st
    case finish => exact text rfl
    all_goals trivial

/-! ### Commands and moves -/

theorem ne_persistenceIOFailure_of_mem_errorsOf {i : Instr} {e : CmdError} (h : e ∈ errorsOf i) :
    e ≠ .persistenceIOFailure := by
  rintro rfl
  cases i <;> exact absurd h (by decide)

theorem ne_persistenceIOFailure_of_mem_stageErrors {st : EmitStage} {e : CmdError}
    (h : (st, e) ∈ stageErrors) : e ≠ .persistenceIOFailure := by
  rintro rfl
  cases st <;> exact absurd h (by decide)

/-- No success touches an indication or `WAIT`, and none leaves `MUSTP` without `TOKEN`
(10_state R30). -/
theorem TokenEffect.status {i : Instr} {s : State} {tok : Token} {f : Status → Status}
    (h : TokenEffect i s tok f) {x : Status} (token : x.token = s.status.token)
    (mustp : x.mustp = true → x.token = true) :
    (f x).busy = x.busy ∧ (f x).errf = x.errf ∧ (f x).wait = x.wait ∧
      ((f x).mustp = true → (f x).token = true) := by
  cases h with
  | none _ _ hf => subst hf; exact ⟨rfl, rfl, rfl, mustp⟩
  | loaded _ hf => subst hf; exact ⟨rfl, rfl, rfl, fun _ => rfl⟩
  | emitted _ _ present _ _ hf => subst hf; exact ⟨rfl, rfl, rfl, fun _ => token.trans present⟩
  | saved _ _ hf => subst hf; exact ⟨rfl, rfl, rfl, fun h => nomatch h⟩

/-- However a command ends, the invariant holds there. -/
theorem CmdEnd.inv {i : Instr} {s t : State} (c : CmdEnd i s t) (h : s.DataInv)
    (wait : s.status.wait = false) : t.Inv := by
  cases c with
  | failed e a he ht =>
    subst ht
    exact h.endedErr (ne_persistenceIOFailure_of_mem_errorsOf he) a
  | held _ a l present follows ht =>
    subst ht
    exact ((h.begin 0x01).with_wait_agents true a).toStage present rfl nofun follows
  | done tok crc dout len reg a f answered token _ _ _ ht =>
    subst ht
    obtain ⟨hbusy, herrf, hwait, hmustp⟩ := token.status
      (x := { s.status with busy := false, done := true, errf := false }) rfl h.mustp
    exact State.DataInv.inv_of_idle { answered.data h with mustp := hmustp } rfl hbusy
      (hwait.trans wait) rfl (iff_of_false (by simp [State.endedOk, herrf]) (by simp [State.endedOk]))
      (by simp [State.endedOk, errCodes])

/-- Where `WAIT` tells the wait, it does so after the move (10_state R30). -/
theorem EmitStage.waitAfter_hold (st st' : EmitStage) :
    st.waitAfter st' (decide (st = .hold)) = decide (st' = .hold) := by
  unfold waitAfter
  by_cases hst : st = .hold <;> by_cases hst' : st' = .hold <;> simp [hst, hst']

/-- Whatever a move of an `EMIT_OTP` in flight does, it keeps the invariant. -/
theorem EmitTick.inv {s t : State} {st : EmitStage} {l : EmitLocals} (c : EmitTick s st l t)
    (h : s.Inv) (hf : s.flight = .emit st l) : t.Inv := by
  have run : s.Running := h.running (by simp [hf])
  have token : s.status.token = true := h.emitting (by rw [hf]; rfl)
  have wait : s.status.wait = decide (st = .hold) := by rw [h.wait, hf, Flight.held_emit]
  cases c with
  | moved st' l' a succ follows text ht =>
    subst ht
    refine (run.with_wait_agents _ a).toStage token ?_ text (follows (hf ▸ h.follows :))
    show st.waitAfter st' s.status.wait = _
    rw [wait, EmitStage.waitAfter_hold]
  | failed e a he ht =>
    subst ht
    exact h.data.endedErr (ne_persistenceIOFailure_of_mem_stageErrors he) a
  | done hst ht =>
    subst hst ht
    have text : l.text.length = 32 := (hf ▸ h.sound :)
    have fits : (mhxEnc s.token.pubId.toList ++ l.text).length ≤ 2 * Config.bufCap :=
      fits_small (by rw [List.length_append, length_mhxEnc_toList, text]; decide)
    have commit : State.Running { s with
        token := { s.token with counter := l.ctr, session := l.sess, lastUse := l.lastUse,
                                ponRand := l.ponRand }
        status := s.status.emitted } := { run with mustp := fun _ => token }
    exact (commit.putResult fits).complete wait

/-! ### The block moves on its own -/

/-- A code taken runs, or is no command and fails at once. -/
theorem State.Inv.runLatched {s t : State} {v : Byte} (h : s.Inv) (hf : s.flight = .latched v)
    (ht : s.runLatched v = .next t) : t.Inv := by
  unfold State.runLatched at ht
  split at ht
  · rename_i i _ _
    obtain ⟨t', ht', c⟩ := exec_cases i s
    rw [ht'] at ht
    cases ht
    exact c.inv h.data (h.wait_of_latched hf)
  · cases ht
    exact h.data.endedErr (e := .illegalCommand) (by decide) s.agents

theorem State.Inv.emitStart {s : State} {v : Byte} (h : s.Inv) (hf : s.flight = .latched v) :
    s.emitStart.Inv := by
  unfold State.emitStart
  rcases State.withToken_cases (s.begin 0x01) fun s => s.toStage .advance s.token.locals with
    ⟨-, e⟩ | ⟨token, e⟩
  · rw [e]
    exact h.data.endedErr (e := .noToken) (by decide) s.agents
  · rw [e]
    exact (h.data.begin 0x01).toStage token (h.wait_of_latched hf) nofun ⟨rfl, rfl, rfl, rfl⟩

theorem State.Inv.tick {s t : State} (h : s.Inv) (ht : s.tick = .next t) : t.Inv := by
  cases hf : s.flight with
  | idle =>
    simp only [State.tick, hf] at ht
    cases ht
    exact h
  | latched v =>
    simp only [State.tick, hf] at ht
    split at ht
    · cases ht
      exact h.emitStart hf
    · exact h.runLatched hf ht
  | emit st l => exact (State.tick_cases hf (by rw [h.seq, hf]; rfl) ht).inv h hf

/-- Out of the wait a tick is one move. -/
theorem State.tick_emit {s : State} {st : EmitStage} {l : EmitLocals} (hf : s.flight = .emit st l)
    (hst : st ≠ .hold) : s.tick = .next s.emitMove := by
  unfold State.tick
  rw [hf]
  cases st
  case hold => exact absurd rfl hst
  all_goals rfl

theorem State.Inv.emitMove {s : State} (h : s.Inv) : s.emitMove.Inv := by
  cases hf : s.flight with
  | idle => rwa [State.emitMove_idle hf]
  | latched v => rwa [show s.emitMove = s by simp [State.emitMove, hf]]
  | emit st l =>
    by_cases hst : st = .hold
    · subst hst
      rwa [show s.emitMove = s from State.emitMoves_hold hf 1]
    · exact h.tick (State.tick_emit hf hst)

theorem State.Inv.emitMoves {s : State} (h : s.Inv) (n : Nat) : (s.emitMoves n).Inv := by
  induction n generalizing s with
  | zero => exact h
  | succ n ih => exact ih h.emitMove

theorem State.Inv.emitHold {s : State} {l : EmitLocals} (h : s.Inv)
    (hf : s.flight = .emit .hold l) : (s.emitHold l).Inv :=
  h.tick (by rw [State.tick, hf])

theorem State.Inv.advance {s t : State} (h : s.Inv) (ht : s.advance = .next t) : t.Inv := by
  unfold State.advance at ht
  split at ht
  case h_1 => cases ht; exact h
  case h_2 v hf => exact h.runLatched hf ht
  case h_3 l hf => cases ht; exact (h.emitHold hf).emitMoves 7
  case h_4 => cases ht; exact h.emitMoves 7

end Sys2Proof.Machine

/-! PROOFS. The host's accesses keep the invariant, and so does every step. -/

namespace Sys2Proof.Machine

/-! ### Taking a code -/

/-- Only its own code decodes to a command (30_encoding R93). -/
theorem eq_code_of_decodeByte {v : Byte} {i : Instr} (h : decodeByte v = .ok i) : v = i.code := by
  unfold decodeByte at h
  split at h <;> cases h <;> exact BitVec.eq_of_toNat_eq ‹_›

theorem Flight.seq_latched_code (i : Instr) : (Flight.latched i.code).seq = startSeq i := by
  cases i <;> rfl

theorem Flight.sound_latched_code (i : Instr) : (Flight.latched i.code).sound := by
  cases i <;> simp [Flight.sound, Instr.all]

theorem State.Inv.accept {s : State} (h : s.Inv) (hf : s.flight = .idle) (v : Byte) :
    (s.accept v).Inv := by
  rcases s.accept_cases v with ⟨i, hi, e⟩ | ⟨_, -, e⟩
  · rw [e, eq_code_of_decodeByte hi]
    exact State.Running.inv { h.data.begin (startSeq i) with } (by simp) (h.wait_of_idle hf)
      (Flight.seq_latched_code i).symm (fun he => nomatch he) (Flight.sound_latched_code i) trivial
  · rw [e]
    exact h.data.endedErr (e := .illegalCommand) (by decide) s.agents

/-! ### The register map -/

/-- A byte access reaches an index within its register or buffer (20_memory R73). -/
theorem lt_size_of_locate {off n i : Nat} {a : ByteReg} (h : locate off n = some (.byte a i)) :
    i < a.size := by
  unfold locate at h
  split at h
  · cases h
  · split at h
    · rename_i found
      cases h
      split at found
      · have := List.find?_some found
        simp only [Bool.and_eq_true, decide_eq_true_eq] at this
        exact this.2
      · cases found
    · split at h <;> cases h

theorem locate_of_busPlace {addr n : Nat} {p : Place} (h : busPlace addr n = .next p) :
    locate (addr - Config.base) n = some p := by
  unfold busPlace at h
  split at h
  · cases h
  · split at h
    · rename_i found
      cases h
      exact found
    · cases h

/-- A host write to a place leaves the control registers as they are (20_memory R73). -/
theorem State.writePlace_control (s : State) (p : Place) (v : BitVec 64) :
    (s.writePlace p v).status = s.status ∧ (s.writePlace p v).err = s.err ∧
      (s.writePlace p v).seq = s.seq ∧ (s.writePlace p v).flight = s.flight := by
  cases p with
  | scalar r => cases r <;> exact ⟨rfl, rfl, rfl, rfl⟩
  | byte a i => cases a <;> exact ⟨rfl, rfl, rfl, rfl⟩
  | unlisted => exact ⟨rfl, rfl, rfl, rfl⟩

theorem State.DataInv.writeScalar {s : State} (h : s.DataInv) (r : Scalar) (v : BitVec 64) :
    (s.writeScalar r v).DataInv := by
  cases r <;> exact { h with }

/-- Of the buffers a host write reaches `DIN` and `KIN` only, below their capacity. -/
theorem State.DataInv.writeByte {s : State} (h : s.DataInv) {a : ByteReg} {i : Nat}
    (hi : i < a.size) (b : Byte) : (s.writeByte a i b).DataInv := by
  cases a
  case kin =>
    exact { h with kinWf := Memory.wf_write h.kinWf i b
                   kinWithin := Memory.within_write h.kinWithin hi b }
  case din =>
    exact { h with dinWf := Memory.wf_write h.dinWf i b
                   dinWithin := Memory.within_write h.dinWithin hi b }
  all_goals exact { h with }

theorem State.DataInv.writePlace {s : State} (h : s.DataInv) {addr n : Nat} {p : Place}
    (hp : busPlace addr n = .next p) (v : BitVec 64) : (s.writePlace p v).DataInv := by
  cases p with
  | scalar r => exact h.writeScalar r v
  | byte a i => exact h.writeByte (lt_size_of_locate (locate_of_busPlace hp)) (v.setWidth 8)
  | unlisted => exact h

theorem State.Inv.writePlace {s : State} (h : s.Inv) (hf : s.flight = .idle) {addr n : Nat}
    {p : Place} (hp : busPlace addr n = .next p) (v : BitVec 64) : (s.writePlace p v).Inv := by
  obtain ⟨hstatus, herr, hseq, hflight⟩ := s.writePlace_control p v
  have idle : s.status.busy = false := by simpa [hf] using h.busy
  refine (h.data.writePlace hp v).inv_of_idle (hflight.trans hf) ?_ ?_ ?_ ?_ ?_
  · rw [hstatus, idle]
  · rw [hstatus, h.wait_of_idle hf]
  · rw [hseq, h.seq, hf]; rfl
  · rw [hstatus, herr]; exact h.errf
  · rw [herr]; exact h.errCode

/-! ### Every action of the outside -/

/-- A host write: dropped while a command is in flight, else it takes a code or stores by name. -/
theorem State.Inv.hostWrite {s t : State} {addr n : Nat} {v : BitVec 64} (h : s.Inv)
    (ht : s.hostWrite addr n v = .next t) : t.Inv := by
  unfold State.hostWrite at ht
  split at ht
  · rename_i p hp
    split at ht
    · cases ht; exact h
    · rename_i notBusy
      have hf : s.flight = .idle := Classical.not_not.mp fun hne => notBusy (h.busy.mpr hne)
      split at ht <;> cases ht
      · exact h.accept hf _
      · exact h.writePlace hf hp v
  · cases ht
  · cases ht

theorem State.Inv.hostRead {s t : State} {addr n : Nat} (h : s.Inv)
    (ht : s.hostRead addr n = .next t) : t.Inv := by
  unfold State.hostRead at ht
  split at ht <;> cases ht
  exact { h with }

theorem State.Inv.act {s t : State} {a : HostAct} (h : s.Inv) (ht : s.act a = .next t) : t.Inv := by
  cases a with
  | write addr n v => exact h.hostWrite ht
  | read addr n => exact h.hostRead ht
  | reset => cases ht; exact { resetHasInvariant with }
  | run => exact h.advance ht
  | tick => exact h.tick ht

/-- Settles O5: with no action of the outside left the block moves on its own, else the oldest action
takes effect; each keeps the invariant. -/
theorem stepKeepsInvariant : Obligations.StepKeepsInvariant := by
  unfold Obligations.StepKeepsInvariant
  intro s t h ht
  unfold step State.stepOnce at ht
  split at ht
  · exact h.advance ht
  · rename_i rest _
    have h' : State.Inv { s with inputs := rest } := { h with }
    exact h'.act ht

end Sys2Proof.Machine

/-! PROOFS. How the block moves: a taken code runs at the next step (20_memory R78, R82), and the ticks of the
sequencer lead where the run of `EMIT_OTP` leads (44_state_machine R213). -/

namespace Sys2Proof.Machine

/-- With no action of the outside left, a step is a move of the block (20_memory R78). -/
theorem step_of_inputs_nil {s : State} (h : s.inputs = []) : step s = s.advance := by
  rw [step, State.stepOnce, h]

/-- A step takes the oldest action of the outside off the list (20_memory R77). -/
theorem step_of_inputs_cons {s : State} {a : HostAct} {rest : List HostAct}
    (h : s.inputs = a :: rest) : step s = { s with inputs := rest }.act a := by
  rw [step, State.stepOnce, h]

theorem State.runLatched_of_decode {v : Byte} {i : Instr} {rest : List Byte}
    (h : decode [v] = .ok (i, rest)) (s : State) : s.runLatched v = exec i s := by
  rw [runLatched, h]

theorem State.advance_latched {s : State} {v : Byte} (h : s.flight = .latched v) :
    s.advance = s.runLatched v := by
  rw [advance, h]

/-- A code of eight bits is latched as it is, with the block's move as the next thing (30_encoding R90,
log 4). -/
theorem State.withFetchWord_toNat (s : State) (v : Byte) :
    s.withFetchWord 8 v.toNat = { s with flight := .latched v, inputs := .run :: s.inputs } := by
  rw [withFetchWord, latchWord, commandByte, Nat.mod_eq_of_lt v.isLt, BitVec.ofNat_toNat,
    BitVec.setWidth_eq]

/-- Settles O7: whatever lets the block move, the code taken is decoded and its command runs. -/
theorem stepRunsTakenCommand : Obligations.StepRunsTakenCommand := by
  unfold Obligations.StepRunsTakenCommand
  intro s v i rest hv _
  have runs (u : State) (hu : u.flight = .latched v) : u.advance = exec i u :=
    (State.advance_latched hu).trans (State.runLatched_of_decode hv u)
  refine ⟨fun hf hin => ?alone, fun hf hin => ?marked, ?fetched⟩
  case alone => rw [step_of_inputs_nil hin, runs s hf]
  case marked => exact (step_of_inputs_cons hin).trans (runs { s with inputs := rest } hf)
  case fetched =>
    rw [State.withFetchWord_toNat]
    exact runs { s with flight := .latched v } rfl

/-! ### Ticks and moves -/

theorem State.ticks_succ {s t : State} (h : s.tick = .next t) (n : Nat) :
    s.ticks (n + 1) = t.ticks n := by
  rw [ticks, h]

/-- Where the sequencer does not move, it does not move any number of times. -/
theorem State.emitMoves_of_emitMove_eq {s : State} (h : s.emitMove = s) (n : Nat) :
    s.emitMoves n = s := by
  induction n with
  | zero => rfl
  | succ n ih => rw [emitMoves, h, ih]

/-- A tick is one move of the sequencer, unless there is no move to make: nothing in flight, a command not
yet started, or one held in its wait. -/
theorem State.emitMove_eq_or_tick (s : State) : s.emitMove = s ∨ s.tick = .next s.emitMove := by
  cases hf : s.flight with
  | idle => exact .inl (emitMove_idle hf)
  | latched v => exact .inl (by rw [emitMove, hf])
  | emit st l =>
    by_cases hst : st = .hold
    · subst hst
      exact .inl (emitMoves_hold hf 1)
    · exact .inr (tick_emit hf hst)

/-- Any number of moves is reached by as many ticks, or by fewer when the wait or the end stops it. -/
theorem State.ticks_eq_emitMoves (s : State) (n : Nat) :
    ∃ m ≤ n, s.ticks m = .next (s.emitMoves n) := by
  induction n generalizing s with
  | zero => exact ⟨0, Nat.le_refl 0, rfl⟩
  | succ n ih =>
    rcases s.emitMove_eq_or_tick with stays | ticks
    · exact ⟨0, Nat.zero_le _, by rw [emitMoves_of_emitMove_eq stays]; rfl⟩
    · obtain ⟨m, hm, reached⟩ := ih s.emitMove
      exact ⟨m + 1, Nat.succ_le_succ hm, (ticks_succ ticks m).trans reached⟩

/-- The first tick of a taken `EMIT_OTP` starts it (44_state_machine R200). -/
theorem State.tick_emitOtp {s : State} (h : s.flight = .latched 0x52) :
    s.tick = .next s.emitStart := by
  simp only [tick, h]
  rfl

/-- Settles O59: one tick for the start, then at most one for each of the seven moves. -/
theorem ticksReachTheRun : Obligations.TicksReachTheRun := by
  unfold Obligations.TicksReachTheRun
  intro s hf
  obtain ⟨m, hm, reached⟩ := s.emitStart.ticks_eq_emitMoves 7
  refine ⟨m + 1, Nat.succ_le_succ hm, ?_⟩
  calc s.ticks (m + 1) = s.emitStart.ticks m := State.ticks_succ (State.tick_emitOtp hf) m
    _ = exec .emitOtp s := reached
    _ = s.advance := ((State.advance_latched hf).trans (State.runLatched_of_decode rfl s)).symm

end Sys2Proof.Machine

/-! PROOFS. The busy gate: what the host reads while a command is in flight is what the registers held as it
started (20_memory R80, R81). -/

namespace Sys2Proof.Machine

/-- `t` has every register and buffer of `s` but `STATUS` and `SEQ`. -/
def State.SameRegisters (s t : State) : Prop :=
  t = { s with status := t.status, seq := t.seq, flight := t.flight, agents := t.agents,
               inputs := t.inputs, busData := t.busData }

theorem State.SameRegisters.refl (s : State) : s.SameRegisters s := rfl

theorem State.SameRegisters.trans {s t u : State} (h : s.SameRegisters t) (h' : t.SameRegisters u) :
    s.SameRegisters u := by
  unfold SameRegisters at *
  rw [h', h]

/-- A move of an `EMIT_OTP` in flight commits nothing unless it ends the command (44_state_machine R213). -/
theorem EmitTick.sameRegisters {s t : State} {st : EmitStage} {l : EmitLocals}
    (c : EmitTick s st l t) (busy : t.status.busy = true) : s.SameRegisters t := by
  cases c with
  | moved _ _ _ _ _ _ h => subst h; rfl
  | failed _ _ _ h => subst h; cases busy
  | done _ h => subst h; cases busy

/-- Of the commands only an `EMIT_OTP` held in its wait leaves `BUSY` set. That its start sets `ERR` to 0 is
no change, for a command in flight has it at 0 (10_state R32, log 7). -/
theorem CmdEnd.sameRegisters {i : Instr} {s t : State} (c : CmdEnd i s t) (h : s.Running)
    (busy : t.status.busy = true) : s.SameRegisters t := by
  cases c with
  | failed _ _ _ ht => subst ht; cases busy
  | held _ _ _ _ _ ht =>
    subst ht
    unfold State.SameRegisters
    rw [h.noErr]
    rfl
  | done _ _ _ _ _ _ _ _ token _ _ _ ht =>
    subst ht
    obtain ⟨notBusy, -⟩ := token.status
      (x := { s.status with busy := false, done := true, errf := false }) rfl h.mustp
    exact nomatch notBusy.symm.trans busy

/-! ### The moves of the block -/

theorem State.SameRegisters.runLatched {s t : State} {v : Byte} (h : s.Running)
    (ht : s.runLatched v = .next t) (busy : t.status.busy = true) : s.SameRegisters t := by
  unfold State.runLatched at ht
  split at ht
  · rename_i i _ _
    obtain ⟨t', ht', c⟩ := exec_cases i s
    rw [ht'] at ht
    cases ht
    exact c.sameRegisters h busy
  · cases ht
    cases busy

theorem State.SameRegisters.tick {s t : State} (h : s.Inv) (ht : s.tick = .next t)
    (busy : t.status.busy = true) : s.SameRegisters t := by
  cases hf : s.flight with
  | idle =>
    rw [State.tick, hf] at ht
    cases ht
    exact .refl s
  | latched v =>
    have run : s.Running := h.running (by simp [hf])
    simp only [State.tick, hf] at ht
    split at ht
    · cases ht
      unfold State.emitStart at busy ⊢
      rcases State.withToken_cases (s.begin 0x01) fun s => s.toStage .advance s.token.locals with
        ⟨-, e⟩ | ⟨-, e⟩ <;> rw [e] at busy ⊢
      · cases busy
      · unfold State.SameRegisters
        rw [run.noErr]
        rfl
    · exact .runLatched run ht busy
  | emit st l => exact (State.tick_cases hf (by rw [h.seq, hf]; rfl) ht).sameRegisters busy

theorem State.SameRegisters.emitMove {s : State} (h : s.Inv) (busy : s.emitMove.status.busy = true) :
    s.SameRegisters s.emitMove := by
  rcases s.emitMove_eq_or_tick with stays | ticks
  · rw [stays]
    exact .refl s
  · exact .tick h ticks busy

/-- A block that has nothing in flight stands, so a command in flight after some moves was so before. -/
theorem State.Inv.busy_of_emitMoves {s : State} (h : s.Inv) {n : Nat}
    (busy : (s.emitMoves n).status.busy = true) : s.status.busy = true := by
  refine h.busy.mpr fun idle => ?_
  rw [emitMoves_idle idle] at busy
  exact h.busy.mp busy idle

theorem State.SameRegisters.emitMoves {s : State} (h : s.Inv) (n : Nat)
    (busy : (s.emitMoves n).status.busy = true) : s.SameRegisters (s.emitMoves n) := by
  induction n generalizing s with
  | zero => exact .refl s
  | succ n ih =>
    exact .trans (.emitMove h (h.emitMove.busy_of_emitMoves busy)) (ih h.emitMove busy)

theorem State.SameRegisters.advance {s t : State} (h : s.Inv) (ht : s.advance = .next t)
    (busy : t.status.busy = true) : s.SameRegisters t := by
  unfold State.advance at ht
  split at ht
  case h_1 => cases ht; exact .refl s
  case h_2 v hf => exact .runLatched (h.running (by simp [hf])) ht busy
  case h_3 l hf =>
    cases ht
    have asked : (s.emitHold l).Inv := h.emitHold hf
    exact .trans (.tick h (by rw [State.tick, hf]) (asked.busy_of_emitMoves busy))
      (.emitMoves asked 7 busy)
  case h_4 => cases ht; exact .emitMoves h 7 busy

/-! ### The actions of the outside -/

/-- While a command is in flight a host write that has a meaning is dropped (20_memory R81). -/
theorem State.hostWrite_busy {s t : State} {addr n : Nat} {v : BitVec 64}
    (busy : s.status.busy = true) (ht : s.hostWrite addr n v = .next t) : t = s := by
  unfold State.hostWrite at ht
  split at ht
  · rw [if_pos busy] at ht
    cases ht
    rfl
  · cases ht
  · cases ht

theorem State.SameRegisters.act {s t : State} {a : HostAct} (h : s.Inv)
    (started : s.status.busy = true) (ht : s.act a = .next t) (busy : t.status.busy = true) :
    s.SameRegisters t := by
  cases a with
  | write addr n v =>
    rw [State.hostWrite_busy started ht]
    exact .refl s
  | read addr n =>
    change s.hostRead addr n = .next t at ht
    unfold State.hostRead at ht
    split at ht <;> cases ht
    rfl
  | reset => cases ht; cases busy
  | run => exact .advance h ht busy
  | tick => exact .tick h ht busy

/-- Settles O55: whatever a step does, a command still in flight after it has written `STATUS` and `SEQ` only,
and a host write is taken off the list and dropped. -/
theorem busyGateHolds : Obligations.BusyGateHolds := by
  unfold Obligations.BusyGateHolds
  intro s t h started ht
  refine ⟨fun busy => ?gate, fun addr n v rest hin => ?dropped⟩
  case gate =>
    show s.SameRegisters t
    cases hin : s.inputs with
    | nil => exact .advance h (step_of_inputs_nil hin ▸ ht) busy
    | cons a rest =>
      have taken : s.SameRegisters { s with inputs := rest } := rfl
      have h' : State.Inv { s with inputs := rest } := { h with }
      exact taken.trans (.act h' started (step_of_inputs_cons hin ▸ ht) busy)
  case dropped =>
    rw [step_of_inputs_cons hin] at ht
    exact State.hostWrite_busy started ht

end Sys2Proof.Machine

/-! PROOFS. What `locate` finds, from the layout of the map: rows that ascend and do not overlap
(20_memory R70, R73). -/

namespace Sys2Proof.Machine

/-! ### The rows of the map -/

theorem Scalar.mem_all (r : Scalar) : r ∈ Scalar.all := by cases r <;> decide

theorem ByteReg.mem_all (a : ByteReg) : a ∈ ByteReg.all := by cases a <;> decide

theorem Scalar.offset_inj {r r' : Scalar} (h : r.offset = r'.offset) : r = r' :=
  List.inj_on_of_nodup_map (by decide : (Scalar.all.map Scalar.offset).Nodup) r.mem_all r'.mem_all h

theorem Scalar.size_mem (r : Scalar) : r.size ∈ [1, 2, 4, 8] := by cases r <;> decide

theorem Scalar.size_pos (r : Scalar) : 0 < r.size := by cases r <;> decide

/-- Every scalar is naturally aligned (20_memory R70). -/
theorem Scalar.offset_mod_size (r : Scalar) : r.offset % r.size = 0 := by cases r <;> rfl

/-- The byte registers and buffers stand in the map in the order of their offsets. -/
theorem ByteReg.all_pairwise : ByteReg.all.Pairwise fun a b => a.offset + a.size ≤ b.offset := by
  simp [ByteReg.all, ByteReg.offset, ByteReg.size]
  omega

/-- The scalars lie in two groups, below `PUBID` and between `F_UID` and `BLKIMG`. -/
theorem Scalar.groups (r : Scalar) :
    r.offset + r.size ≤ 0x048 ∨ 0x096 ≤ r.offset ∧ r.offset + r.size ≤ 0x0B0 := by
  cases r <;> decide

/-- No byte register or buffer reaches into a group of scalars. -/
theorem ByteReg.groups (a : ByteReg) :
    0x048 ≤ a.offset ∧ a.offset + a.size ≤ 0x096 ∨ 0x0B0 ≤ a.offset := by
  cases a <;> simp [ByteReg.offset, ByteReg.size]; omega

/-- An offset within a byte register or buffer. -/
def ByteReg.Covers (a : ByteReg) (off : Nat) : Prop := a.offset ≤ off ∧ off < a.offset + a.size

theorem ByteReg.Covers.unique {a b : ByteReg} {off : Nat} (ha : a.Covers off) (hb : b.Covers off) :
    a = b := by
  by_contra distinct
  have symm : Std.Symm fun a b : ByteReg =>
      a.offset + a.size ≤ b.offset ∨ b.offset + b.size ≤ a.offset := ⟨fun _ _ => Or.symm⟩
  have apart := (ByteReg.all_pairwise.imp Or.inl).forall (R := fun a b : ByteReg =>
      a.offset + a.size ≤ b.offset ∨ b.offset + b.size ≤ a.offset) a.mem_all b.mem_all distinct
  unfold Covers at ha hb
  omega

/-- No scalar stands within a byte register or buffer. -/
theorem ByteReg.Covers.ne_scalar {a : ByteReg} {off : Nat} (h : a.Covers off) (r : Scalar) :
    r.offset ≠ off := by
  have := r.groups
  have := a.groups
  have := r.size_pos
  unfold Covers at h
  omega

/-! ### `arrayAt` and `locate` -/

/-- A search finds the one element that passes its test. -/
theorem find?_eq_some_of_unique {α : Type} {p : α → Bool} {l : List α} {x : α} (mem : x ∈ l)
    (hx : p x = true) (unique : ∀ y, p y = true → y = x) : l.find? p = some x := by
  cases found : l.find? p with
  | none => exact absurd hx (List.find?_eq_none.mp found x mem)
  | some y => rw [unique y (List.find?_some found)]

/-- The scalar an access reaches, as the search of `locate` finds it. -/
def scalarAt (off n : Nat) : Option Scalar :=
  Scalar.all.find? fun r => r.offset == off && r.size == n

theorem scalarAt_eq_some_iff {off n : Nat} {r : Scalar} :
    scalarAt off n = some r ↔ r.offset = off ∧ r.size = n := by
  have passes (x : Scalar) :
      (x.offset == off && x.size == n) = true ↔ x.offset = off ∧ x.size = n := by simp
  refine ⟨fun found => ?_, fun h => ?_⟩
  · have hit := List.find?_some found
    exact (passes r).mp hit
  · refine find?_eq_some_of_unique r.mem_all ((passes r).mpr h) fun x hx => ?_
    exact Scalar.offset_inj (((passes x).mp hx).1.trans h.1.symm)

theorem arrayAt_eq_some_iff {off : Nat} {a : ByteReg} : arrayAt off = some a ↔ a.Covers off := by
  have passes (x : ByteReg) :
      (decide (x.offset ≤ off) && decide (off - x.offset < x.size)) = true ↔ x.Covers off := by
    simp only [Bool.and_eq_true, decide_eq_true_eq, ByteReg.Covers]
    omega
  refine ⟨fun found => ?_, fun covers => ?_⟩
  · have hit := List.find?_some found
    exact (passes a).mp hit
  · exact find?_eq_some_of_unique a.mem_all ((passes a).mpr covers) fun x hx =>
      ((passes x).mp hx).unique covers

theorem locate_of_scalarAt {off n : Nat} {r : Scalar} (h : scalarAt off n = some r) :
    locate off n = some (.scalar r) := by
  unfold scalarAt at h
  simp only [locate, h]

/-- An access of one byte that is no scalar. -/
theorem locate_of_arrayAt {off : Nat} {a : ByteReg} (hs : scalarAt off 1 = none)
    (ha : arrayAt off = some a) : locate off 1 = some (.byte a (off - a.offset)) := by
  unfold scalarAt at hs
  simp only [locate, hs, if_true, ha]

/-- Any other access. -/
theorem locate_of_neither {off n : Nat} (hs : scalarAt off n = none)
    (ha : n = 1 → arrayAt off = none) :
    locate off n =
      if sizeOk n && off % n == 0 && !touchesListed off n then some .unlisted else none := by
  unfold scalarAt at hs
  by_cases hn : n = 1
  · simp only [locate, hs, if_pos hn, ha hn]
  · simp only [locate, hs, if_neg hn]

/-- A scalar is reached at its offset, in its size (20_memory R70). -/
theorem locate_scalar (r : Scalar) : locate r.offset r.size = some (.scalar r) :=
  locate_of_scalarAt (scalarAt_eq_some_iff.mpr ⟨rfl, rfl⟩)

/-- A byte register or buffer is reached byte by byte (20_memory R70). -/
theorem locate_byte (a : ByteReg) {i : Nat} (hi : i < a.size) :
    locate (a.offset + i) 1 = some (.byte a i) := by
  have covers : a.Covers (a.offset + i) := ⟨Nat.le_add_right _ _, Nat.add_lt_add_left hi _⟩
  have noScalar : scalarAt (a.offset + i) 1 = none := by
    rw [Option.eq_none_iff_forall_ne_some]
    exact fun r found => covers.ne_scalar r (scalarAt_eq_some_iff.mp found).1
  rw [locate_of_arrayAt noScalar (arrayAt_eq_some_iff.mpr covers), Nat.add_sub_cancel_left]

/-! ### The rows as the statements list them -/

theorem sizeOk_iff {n : Nat} : sizeOk n = true ↔ n ∈ [1, 2, 4, 8] := by
  simp [sizeOk, or_assoc]

/-- `STATUS` as a number (10_state R30). -/
theorem Status.toNat_toByte (f : Status) :
    f.toByte.toNat = f.busy.toNat + 2 * f.done.toNat + 4 * f.errf.toNat + 8 * f.wait.toNat +
      16 * f.token.toNat + 32 * f.mustp.toNat := by
  obtain ⟨busy, done, errf, wait, token, mustp⟩ := f
  revert busy done errf wait token mustp
  decide

theorem scalarView_eq (s : State) :
    scalarView s = Scalar.all.map fun r => (r.offset, r.size, (s.readScalar r).toNat) := by
  simp [scalarView, Scalar.all, Scalar.offset, Scalar.size, State.readScalar, Status.toNat_toByte,
    BitVec.toNat_setWidth_of_le, -BitVec.toNat_setWidth]

theorem bytesView_eq (s : State) :
    bytesView s = ByteReg.all.map fun a => (a.offset, a.size, s.readByte a) := rfl

theorem meetsRow_iff (s : State) {off n : Nat} : meetsRow s off n ↔ touchesListed off n = true := by
  have rows : mapRows s = Scalar.all.map (fun r => (r.offset, r.size)) ++
      ByteReg.all.map (fun a => (a.offset, a.size)) := rfl
  simp [meetsRow, rows, touchesListed, rangesMeet, or_and_right, exists_or]

theorem touchesListed_iff {off n : Nat} :
    touchesListed off n = true ↔
      (∃ r : Scalar, off < r.offset + r.size ∧ r.offset < off + n) ∨
      ∃ a : ByteReg, off < a.offset + a.size ∧ a.offset < off + n := by
  simp [touchesListed, rangesMeet, Scalar.mem_all, ByteReg.mem_all]

/-- An aligned access that touches no row (20_memory R73, log 9). -/
theorem locate_unlisted {off n : Nat} (size : n ∈ [1, 2, 4, 8]) (aligned : off % n = 0)
    (untouched : ¬ touchesListed off n = true) : locate off n = some .unlisted := by
  have apart := touchesListed_iff.not.mp untouched
  have noScalar : scalarAt off n = none := by
    rw [Option.eq_none_iff_forall_ne_some]
    intro r found
    obtain ⟨rfl, rfl⟩ := scalarAt_eq_some_iff.mp found
    have := r.size_pos
    exact apart (.inl ⟨r, by omega, by omega⟩)
  have noArray : n = 1 → arrayAt off = none := by
    rintro rfl
    rw [Option.eq_none_iff_forall_ne_some]
    intro a found
    obtain ⟨lower, upper⟩ := arrayAt_eq_some_iff.mp found
    exact apart (.inr ⟨a, upper, Nat.lt_succ_of_le lower⟩)
  rw [locate_of_neither noScalar noArray, if_pos]
  simpa [sizeOk_iff.mpr size, aligned] using untouched

/-- An access to no whole scalar and no byte of an array that touches a row, or has a size or an alignment
that no access has (20_memory R70, log 9). -/
theorem locate_eq_none {off n : Nat} (noScalar : ∀ r : Scalar, ¬ (r.offset = off ∧ r.size = n))
    (noByte : n = 1 → ∀ a : ByteReg, ¬ a.Covers off)
    (bad : touchesListed off n = true ∨ n ∉ [1, 2, 4, 8] ∨ off % n ≠ 0) : locate off n = none := by
  have scalar : scalarAt off n = none := by
    rw [Option.eq_none_iff_forall_ne_some]
    exact fun r found => noScalar r (scalarAt_eq_some_iff.mp found)
  have array (hn : n = 1) : arrayAt off = none := by
    rw [Option.eq_none_iff_forall_ne_some]
    exact fun a found => noByte hn a (arrayAt_eq_some_iff.mp found)
  rw [locate_of_neither scalar array, if_neg]
  simp only [Bool.and_eq_true, sizeOk_iff, beq_iff_eq, Bool.not_eq_true']
  rintro ⟨⟨size, aligned⟩, untouched⟩
  rcases bad with touches | badSize | misaligned
  · exact Bool.false_ne_true (untouched.symm.trans touches)
  · exact badSize size
  · exact misaligned aligned

end Sys2Proof.Machine

/-! PROOFS. What a host access does, as a step (20_memory R70 to R73, R77). -/

namespace Sys2Proof.Machine

/-! ### Where an access goes -/

theorem busPlace_of_locate {off n : Nat} {p : Place} (inside : off < spaceSize)
    (found : locate off n = some p) : busPlace (Config.base + off) n = .next p := by
  rw [busPlace_offset inside, found]

theorem busPlace_of_locate_none {off n : Nat} (inside : off < spaceSize)
    (found : locate off n = none) : busPlace (Config.base + off) n = .refused .undefinedAccess := by
  rw [busPlace_offset inside, found]

theorem busPlace_outside {addr n : Nat}
    (outside : addr < Config.base ∨ Config.base + spaceSize ≤ addr) :
    busPlace addr n = .fault .outsideRegisterSpace := by
  rw [busPlace, if_pos (by omega)]

/-- Every scalar stands below the buffers, every byte in the register space (20_memory R60). -/
theorem Scalar.offset_lt_spaceSize (r : Scalar) : r.offset < spaceSize := by
  have := r.groups
  have := r.size_pos
  unfold spaceSize
  omega

theorem ByteReg.end_le_spaceSize (a : ByteReg) : a.offset + a.size ≤ spaceSize := by
  unfold spaceSize
  cases a <;> simp [offset, size] <;> omega

theorem busPlace_scalar (r : Scalar) : busPlace (Config.base + r.offset) r.size = .next (.scalar r) :=
  busPlace_of_locate r.offset_lt_spaceSize (locate_scalar r)

theorem busPlace_byte (a : ByteReg) {i : Nat} (hi : i < a.size) :
    busPlace (Config.base + a.offset + i) 1 = .next (.byte a i) := by
  have inside : a.offset + i < spaceSize :=
    Nat.lt_of_lt_of_le (Nat.add_lt_add_left hi _) a.end_le_spaceSize
  rw [Nat.add_assoc]
  exact busPlace_of_locate inside (locate_byte a hi)

/-! ### Reads and writes -/

/-- Neither what is read nor where a write goes depends on the host's later actions. -/
theorem State.readPlace_inputs (s : State) (rest : List HostAct) (p : Place) :
    ({ s with inputs := rest } : State).readPlace p = s.readPlace p := by
  cases p with
  | scalar r => cases r <;> rfl
  | byte a i => cases a <;> rfl
  | unlisted => rfl

theorem State.writePlace_inputs (s : State) (rest : List HostAct) (p : Place) (v : BitVec 64) :
    ({ s with inputs := rest } : State).writePlace p v = { s.writePlace p v with inputs := rest } := by
  cases p with
  | scalar r => cases r <;> rfl
  | byte a i => cases a <;> rfl
  | unlisted => rfl

section
variable {addr n : Nat} {p : Place} (s : State) (rest : List HostAct) (v : BitVec 64)

/-- A read answers the place's value and changes nothing else (20_memory R72). -/
theorem step_read (reached : busPlace addr n = .next p) :
    step { s with inputs := .read addr n :: rest } =
      .next { s with inputs := rest, busData := some (s.readPlace p) } := by
  rw [← s.readPlace_inputs rest p]
  show State.hostRead addr n _ = _
  simp only [State.hostRead, reached]

/-- A write stores by name while no command is in flight (20_memory R73). -/
theorem step_write (reached : busPlace addr n = .next p) (noCmd : p ≠ .scalar .cmd)
    (idle : s.status.busy = false) :
    step { s with inputs := .write addr n v :: rest } =
      .next { s.writePlace p v with inputs := rest } := by
  rw [← s.writePlace_inputs rest p v]
  show State.hostWrite addr n v _ = _
  simp [State.hostWrite, reached, noCmd, idle]

/-- A write to offsets no row lists is dropped, a command in flight or not (20_memory R73, R81). -/
theorem step_write_unlisted (reached : busPlace addr n = .next .unlisted) :
    step { s with inputs := .write addr n v :: rest } = .next { s with inputs := rest } := by
  show State.hostWrite addr n v _ = _
  simp [State.hostWrite, reached, State.writePlace]

theorem step_access_fault (stopped : busPlace addr n = .fault .outsideRegisterSpace) :
    step { s with inputs := .read addr n :: rest } = .fault .outsideRegisterSpace ∧
      step { s with inputs := .write addr n v :: rest } = .fault .outsideRegisterSpace := by
  constructor
  · show State.hostRead addr n _ = _
    simp only [State.hostRead, stopped]
  · show State.hostWrite addr n v _ = _
    simp only [State.hostWrite, stopped]

theorem step_access_refused (stopped : busPlace addr n = .refused .undefinedAccess) :
    step { s with inputs := .read addr n :: rest } = .refused .undefinedAccess ∧
      step { s with inputs := .write addr n v :: rest } = .refused .undefinedAccess := by
  constructor
  · show State.hostRead addr n _ = _
    simp only [State.hostRead, stopped]
  · show State.hostWrite addr n v _ = _
    simp only [State.hostWrite, stopped]

end

/-! ### Which rows a write stores to -/

/-- The scalars a host write stores to, `CMD` apart (20_memory R73). -/
def Scalar.writable : List Scalar :=
  [.dinLen, .kinLen, .ovrMask, .initCtr, .counter, .session, .ponRand, .created, .lastUse, .fCtr,
   .fTstp, .fSess, .fRnd, .fCrc]

/-- The byte registers and buffers a host write stores to (20_memory R73). -/
def ByteReg.writable : List ByteReg := [.ovrPubId, .ovrPrivId, .ovrKey, .fUid, .kin, .din]

theorem scalarWrites_eq (s : State) (v : BitVec 64) :
    scalarWrites s v = Scalar.writable.map fun r => (r.offset, r.size, s.writeScalar r v) := rfl

theorem byteWrites_eq (s : State) (i : Nat) (b : Byte) :
    byteWrites s i b = ByteReg.writable.map fun a => (a.offset, a.size, s.writeByte a i b) := rfl

/-- The scalars that a host write leaves as they are (20_memory R73). -/
def Scalar.readOnly : List Scalar := [.status, .err, .seq, .doutLen, .crcReg]

/-- The byte registers and buffers that a host write leaves as they are (10_state R21, R25). -/
def ByteReg.readOnly : List ByteReg := [.pubId, .privId, .key, .blkImg, .dout]

theorem readOnlyRows_eq :
    readOnlyRows = Scalar.readOnly.map (fun r => (r.offset, r.size, 1)) ++
      ByteReg.readOnly.map (fun a => (a.offset, 1, a.size)) := rfl

theorem State.writeScalar_readOnly {r : Scalar} (h : r ∈ Scalar.readOnly) (s : State) (v : BitVec 64) :
    s.writeScalar r v = s := by
  simp only [Scalar.readOnly, List.mem_cons, List.not_mem_nil, or_false] at h
  rcases h with rfl | rfl | rfl | rfl | rfl <;> rfl

theorem State.writeByte_readOnly {a : ByteReg} (h : a ∈ ByteReg.readOnly) (s : State) (i : Nat)
    (b : Byte) : s.writeByte a i b = s := by
  simp only [ByteReg.readOnly, List.mem_cons, List.not_mem_nil, or_false] at h
  rcases h with rfl | rfl | rfl | rfl | rfl <;> rfl

/-- `CMD` is in neither list: a write to it takes a code (10_state R29). -/
theorem Scalar.ne_cmd {r : Scalar} (h : r ∈ Scalar.writable ∨ r ∈ Scalar.readOnly) :
    Place.scalar r ≠ .scalar .cmd := by
  rintro ⟨⟩
  exact absurd h (by decide)

/-! ### The obligations -/

/-- Settles O56: the rows of the two views are the scalars and the byte registers of the map, each reached at
its offset. -/
theorem hostReadsTheMap : Obligations.HostReadsTheMap := by
  unfold Obligations.HostReadsTheMap
  intro s rest
  rw [scalarView_eq, bytesView_eq]
  refine ⟨List.forall_mem_map.mpr fun r _ => ?scalar, List.forall_mem_map.mpr fun a _ i hi => ?byte⟩
  case scalar => simpa [State.readPlace] using step_read s rest (busPlace_scalar r)
  case byte => exact step_read s rest (busPlace_byte a hi)

/-- Settles O57: the rows of the three lists are scalars and byte registers of the map, each written at its
offset; the read-only ones keep their value. -/
theorem hostWritesTheMap : Obligations.HostWritesTheMap := by
  unfold Obligations.HostWritesTheMap
  intro s v rest idle
  simp only [scalarWrites_eq, byteWrites_eq, readOnlyRows_eq, List.forall_mem_append, List.forall_mem_map]
  refine ⟨fun r hr => ?scalar, fun i a _ hi => ?byte, fun r hr i hi => ?roScalar,
    fun a ha i hi => ?roByte⟩
  case scalar => exact step_write s rest v (busPlace_scalar r) (Scalar.ne_cmd (.inl hr)) idle
  case byte => exact step_write s rest v (busPlace_byte a hi) nofun idle
  case roScalar =>
    obtain rfl : i = 0 := Nat.lt_one_iff.mp hi
    have written := step_write s rest v (busPlace_scalar r) (Scalar.ne_cmd (.inr hr)) idle
    rwa [State.writePlace, State.writeScalar_readOnly hr, ← Nat.add_zero (_ + _),
      ← Nat.zero_mul r.size] at written
  case roByte =>
    have written := step_write s rest v (busPlace_byte a hi) nofun idle
    rwa [State.writePlace, State.writeByte_readOnly ha, ← Nat.mul_one i] at written

/-- Settles O58: an access of the first kind reaches `Place.unlisted`, one of the second faults, and of the
third kind none is a whole scalar or a byte of an array. -/
theorem otherBusAccesses : Obligations.OtherBusAccesses := by
  unfold Obligations.OtherBusAccesses
  intro s v rest
  refine ⟨fun off n inside size aligned untouched => ?unlisted, fun addr n outside => ?outside,
    fun off n inside bad => ?undefined⟩
  case unlisted =>
    rw [meetsRow_iff] at untouched
    have reached := busPlace_of_locate inside (locate_unlisted size aligned untouched)
    exact ⟨step_read s rest reached, step_write_unlisted s rest v reached⟩
  case outside =>
    rw [Nat.add_assoc] at outside
    exact step_access_fault s rest v (busPlace_outside outside)
  case undefined =>
    refine step_access_refused s rest v (busPlace_of_locate_none inside ?_)
    rcases bad with ⟨touches, noScalar, noByte⟩ | badShape
    · simp only [scalarView_eq, bytesView_eq, List.forall_mem_map] at noScalar noByte
      refine locate_eq_none (fun r h => ?_) (fun hn a => noByte hn a a.mem_all)
        (.inl ((meetsRow_iff s).mp touches))
      exact noScalar r r.mem_all ⟨h.1.symm, h.2.symm⟩
    · refine locate_eq_none (fun r h => ?_) (fun hn => ?_) (.inr badShape)
      · obtain ⟨rfl, rfl⟩ := h
        exact badShape.elim (· r.size_mem) (· r.offset_mod_size)
      · subst hn
        exact badShape.elim (absurd (by decide)) (absurd (Nat.mod_one off))

end Sys2Proof.Machine

/-! PROOFS. The command word: its sixteen codes, what decodes to each, and the `CMD` write of a code
(30_encoding R90 to R93). -/

namespace Sys2Proof.Machine

/-! ### Decoding -/

/-- The family and the operation of each row of the table, put together, are the code the decoder lists for
that row (30_encoding R90, R92). -/
theorem decodeByte_code (i : Instr) : decodeByte i.code = .ok i := by cases i <;> rfl

/-- All eight bits are compared (30_encoding R93). -/
theorem decodeByte_eq_ok_iff {v : Byte} {i : Instr} : decodeByte v = .ok i ↔ v = i.code :=
  ⟨eq_code_of_decodeByte, fun h => h ▸ decodeByte_code i⟩

/-- One command is one byte, whatever follows it (30_encoding R90, R102). -/
theorem decode_cons_eq_ok_iff {v : Byte} {rest left : List Byte} {i : Instr} :
    decode (v :: rest) = .ok (i, left) ↔ v = i.code ∧ rest = left := by
  rw [← decodeByte_eq_ok_iff, decode]
  cases decodeByte v <;> simp

/-- A code followed by any bytes decodes to its command and leaves these bytes. -/
theorem decode_of_eq_code {v : Byte} {i : Instr} (h : v = i.code) (rest : List Byte) :
    decode (v :: rest) = .ok (i, rest) :=
  decode_cons_eq_ok_iff.mpr ⟨h, rfl⟩

/-- A table word of eight bits is laid out as the byte it is (30_encoding R90). -/
theorem wordBytes_one_toNat (v : Byte) : wordBytes 1 v.toNat = [v] := by
  rw [wordBytes, wordBytes, BitVec.ofNat_toNat, BitVec.setWidth_eq]

theorem decodeTableWord_code (i : Instr) : decodeTableWord 8 i.code.toNat = some i := by
  have bytes : wordBytes (max 1 (8 / 8)) (i.code.toNat % 2 ^ 8) = [i.code] := by
    rw [Nat.mod_eq_of_lt i.code.isLt]
    exact wordBytes_one_toNat i.code
  rw [decodeTableWord, bytes, decode_of_eq_code rfl]

/-- Settles O2: the decoder takes one byte off the text and compares it with the sixteen codes. -/
theorem decodeEncodeAgree : Obligations.DecodeEncodeAgree := by
  unfold Obligations.DecodeEncodeAgree
  intro v rest i
  refine ⟨?decodes, ?encoded, ?tableWord⟩
  case decodes => exact decode_cons_eq_ok_iff.trans (and_iff_left rfl)
  case encoded => exact decode_of_eq_code rfl rest
  case tableWord => exact decodeTableWord_code i

/-- Settles O1: each byte written out in the table is the family above the operation of its command. -/
theorem commandCodesDecode : Obligations.CommandCodesDecode := by
  unfold Obligations.CommandCodesDecode
  refine ⟨?_, ?_, ?_, ?_, ?_, ?_, ?_, ?_, ?_, ?_, ?_, ?_, ?_, ?_, ?_, ?_⟩ <;>
    exact decode_of_eq_code (by rfl) []

/-! ### The `CMD` write -/

/-- A legal code starts its command and is taken (20_memory R85). -/
theorem State.accept_code (i : Instr) (s : State) :
    s.accept i.code = { s.begin (startSeq i) with flight := .latched i.code } := by
  rw [accept, decodeByte_code]

/-- Any other value starts a command that fails at once (30_encoding R93). -/
theorem State.accept_of_ne_code {v : Byte} (h : ∀ i : Instr, v ≠ i.code) (s : State) :
    s.accept v = s.endedErr .illegalCommand s.agents := by
  rcases s.accept_cases v with ⟨i, legal, -⟩ | ⟨_, -, failed⟩
  · exact absurd (eq_code_of_decodeByte legal) (h i)
  · exact failed

/-- The register at `BASE` is `CMD`: a byte written there while no command is in flight is a code for the
block to take (10_state R29, 20_memory R73). -/
theorem step_write_cmd {s : State} {v : BitVec 64} {rest : List HostAct}
    (idle : s.status.busy = false) (next : s.inputs = .write Config.base 1 v :: rest) :
    step s = .next (State.accept (v.setWidth 8) { s with inputs := rest }) := by
  have reached : busPlace Config.base 1 = .next (.scalar .cmd) := busPlace_scalar .cmd
  rw [step_of_inputs_cons next, State.act]
  simp [State.hostWrite, reached, idle]

/-- Settles O8: the byte written is a code of the table or none of them. -/
theorem cmdWriteTakesTheCode : Obligations.CmdWriteTakesTheCode := by
  unfold Obligations.CmdWriteTakesTheCode
  intro s v rest idle next
  rw [step_write_cmd idle next]
  refine ⟨fun i legal => ?taken, fun illegal => ?refused⟩
  case taken =>
    rw [legal, State.accept_code]
    rfl
  case refused => rw [State.accept_of_ne_code illegal]

end Sys2Proof.Machine

/-! PROOFS. The block as sixteen bytes (43_block_codec R171, 30_encoding R94). -/

namespace Sys2Proof.Machine

theorem toList_uid (u : Bytes 6) : u.toList = [u[0], u[1], u[2], u[3], u[4], u[5]] := by
  refine List.ext_getElem (by simp) fun k hk _ => ?_
  simp only [Vector.length_toList] at hk
  interval_cases k <;> simp

/-- Settles O20: `serialize` lists the fields in the order of their offsets, each low byte first. -/
theorem blockLayout : Obligations.BlockLayout := by
  unfold Obligations.BlockLayout
  intro f
  rw [toList_uid]
  rfl

end Sys2Proof.Machine

/-! PROOFS. Letter case and the symbol tables: the lookup of a decoder finds a nibble exactly when the
character, its letter lowered, is the nibble's symbol (40_text_codecs R120, R123, R124). -/

namespace Sys2Proof.Machine

/-! ### Letter case -/

/-- The lower-case form of an upper-case letter, `0x20` more; every other byte is its own (93 G1). -/
def lowerCase (ch : Byte) : Byte := if 0x41 ≤ ch ∧ ch ≤ 0x5A then ch + 0x20 else ch

/-- The bytes whose lower-case form is `c`, for a `c` that is no upper-case letter. -/
theorem lowerCase_eq_iff {ch c : Byte} (lower : lowerCase c = c) :
    lowerCase ch = c ↔ ch = c ∨ ch = upperCase c := by
  unfold lowerCase at *
  unfold upperCase
  split at lower <;> split <;> split <;> bv_omega

/-! ### Symbol tables -/

/-- What a codec needs of its table: sixteen different symbols, none an upper-case letter
(40_text_codecs R120, R124). -/
structure SymbolTable (sym : BitVec 4 → Byte) : Prop where
  injective : Function.Injective sym
  lower : ∀ k, lowerCase (sym k) = sym k

theorem alphaA_table : SymbolTable alphaA := ⟨by unfold Function.Injective; decide, by decide⟩

theorem hexD_table : SymbolTable hexD := ⟨by unfold Function.Injective; decide, by decide⟩

theorem mem_allNibbles (k : BitVec 4) : k ∈ allNibbles :=
  List.mem_map.mpr ⟨k.toNat, List.mem_range.mpr k.isLt, by simp⟩

/-- The symbol of each nibble is read off its list (40_text_codecs R120, R124). -/
theorem some_getD_toNat {l : List Byte} (sixteen : l.length = 16) (k : BitVec 4) :
    some (l.getD k.toNat 0) = l[k.toNat]? := by
  have inside : k.toNat < l.length := sixteen ▸ k.isLt
  rw [List.getD_eq_getElem _ _ inside, List.getElem?_eq_getElem inside]

/-- The characters a decoder knows: every symbol, and every upper-case form of one. -/
def bothCases (sym : BitVec 4 → Byte) : List Byte :=
  allNibbles.map sym ++ allNibbles.map fun k => upperCase (sym k)

/-- The lookup is total: a byte has a nibble or is outside the alphabet (40_text_codecs R123). -/
theorem symbolValue_eq_none_iff {sym : BitVec 4 → Byte} {ch : Byte} :
    symbolValue sym ch = none ↔ ch ∉ bothCases sym := by
  simp only [symbolValue, List.find?_eq_none, bothCases, List.mem_append, List.mem_map, not_or,
    not_exists, not_and, Bool.or_eq_true, beq_iff_eq, @eq_comm _ ch, forall_and]

theorem eraseDups_bothCases_alphaA : (bothCases alphaA).eraseDups =
    chars ['c', 'b', 'd', 'e', 'f', 'g', 'h', 'i', 'j', 'k', 'l', 'n', 'r', 't', 'u', 'v', 'C', 'B',
      'D', 'E', 'F', 'G', 'H', 'I', 'J', 'K', 'L', 'N', 'R', 'T', 'U', 'V'] := by decide

/-- The ten decimal digits have one form only (40_text_codecs R124). -/
theorem eraseDups_bothCases_hexD : (bothCases hexD).eraseDups =
    chars ['0', '1', '2', '3', '4', '5', '6', '7', '8', '9', 'a', 'b', 'c', 'd', 'e', 'f', 'A', 'B',
      'C', 'D', 'E', 'F'] := by decide

namespace SymbolTable

variable {sym : BitVec 4 → Byte} (T : SymbolTable sym) {ch : Byte} {k : BitVec 4}
include T

/-- The test of the lookup is the equality of the lowered character (40_text_codecs R123). -/
theorem beq_or_beq : (ch == sym k || ch == upperCase (sym k)) = true ↔ lowerCase ch = sym k := by
  simp [lowerCase_eq_iff (T.lower k)]

/-- `AVAL` and `HVAL` find the nibble of the lowered character, and no other (40_text_codecs R123, R124). -/
theorem symbolValue_eq_some_iff : symbolValue sym ch = some k ↔ lowerCase ch = sym k := by
  rw [symbolValue]
  refine ⟨fun found => T.beq_or_beq.mp (by simpa using List.find?_some found), fun symbol => ?_⟩
  refine find?_eq_some_of_unique (mem_allNibbles k) (T.beq_or_beq.mpr symbol) fun k' hk' => ?_
  exact T.injective ((T.beq_or_beq.mp hk').symm.trans symbol)

theorem symbolValue_sym (k : BitVec 4) : symbolValue sym (sym k) = some k :=
  T.symbolValue_eq_some_iff.mpr (T.lower k)

end SymbolTable

end Sys2Proof.Machine

/-! PROOFS. The laws of the two text codecs, proved once for every symbol table (40_text_codecs R121, R122,
R125 to R127). -/

namespace Sys2Proof.Machine

/-! ### The decoder, for any lookup -/

/-- A pair of characters gives one byte, the first character its high nibble (40_text_codecs R122). -/
theorem decodeText_cons_cons_eq_some_iff {val : Byte → Option (BitVec 4)} {x y : Byte}
    {t b : List Byte} : decodeText val (x :: y :: t) = some b ↔
      ∃ h l b', val x = some h ∧ val y = some l ∧ decodeText val t = some b' ∧ (h ++ l) :: b' = b := by
  rw [decodeText]
  cases val x <;> cases val y <;> cases decodeText val t <;> simp

/-- Nothing is decoded when any part of a text is not (40_text_codecs R122). -/
theorem decodeText_cons_cons_eq_none_iff {val : Byte → Option (BitVec 4)} {x y : Byte} {t : List Byte} :
    decodeText val (x :: y :: t) = none ↔ val x = none ∨ val y = none ∨ decodeText val t = none := by
  rw [decodeText]
  cases val x <;> cases val y <;> cases decodeText val t <;> simp

/-- The two ways to fail (40_text_codecs R122, R126). -/
theorem decodeText_eq_none_iff {val : Byte → Option (BitVec 4)} :
    ∀ {t : List Byte}, decodeText val t = none ↔ t.length % 2 = 1 ∨ ∃ ch ∈ t, val ch = none
  | [] => by simp [decodeText]
  | [_] => by simp [decodeText]
  | x :: y :: t => by
    have parity : (x :: y :: t).length % 2 = t.length % 2 := Nat.add_mod_right _ 2
    rw [parity, decodeText_cons_cons_eq_none_iff, decodeText_eq_none_iff (t := t)]
    simp only [List.exists_mem_cons_iff]
    tauto

/-- Byte `i` of the decoded text comes of its characters `2 * i` and `2 * i + 1`. -/
theorem getElem_decodeText {val : Byte → Option (BitVec 4)} :
    ∀ {t b : List Byte}, decodeText val t = some b → ∀ (i : Nat) (hi : i < b.length)
      (hi0 : 2 * i < t.length) (hi1 : 2 * i + 1 < t.length),
      ∃ h l, val t[2 * i] = some h ∧ val t[2 * i + 1] = some l ∧ b[i] = h ++ l
  | [], _, _, i, _, hi0, _ => by simp at hi0
  | [_], _, decoded, _, _, _, _ => by simp [decodeText] at decoded
  | x :: y :: t, _, decoded, i, hi, hi0, hi1 => by
    obtain ⟨h, l, b, hx, hy, ht, rfl⟩ := decodeText_cons_cons_eq_some_iff.mp decoded
    cases i with
    | zero => exact ⟨h, l, hx, hy, rfl⟩
    | succ i =>
      simp only [List.length_cons] at hi hi0 hi1
      simpa [Nat.mul_succ] using getElem_decodeText ht i (by omega) (by omega) (by omega)

/-! ### The encoder -/

theorem encodeText_cons (sym : BitVec 4 → Byte) (x : Byte) (b : List Byte) :
    encodeText sym (x :: b) = sym (highNibble x) :: sym (lowNibbleOf x) :: encodeText sym b := rfl

/-- The two symbols of byte `i` (40_text_codecs R121, R125). -/
theorem getElem_encodeText (sym : BitVec 4 → Byte) : ∀ (b : List Byte) (i : Nat) (hi : i < b.length)
    (hi0 : 2 * i < (encodeText sym b).length) (hi1 : 2 * i + 1 < (encodeText sym b).length),
    (encodeText sym b)[2 * i] = sym (highNibble b[i]) ∧
      (encodeText sym b)[2 * i + 1] = sym (lowNibbleOf b[i])
  | [], i, hi, _, _ => by simp at hi
  | _ :: _, 0, _, _, _ => ⟨rfl, rfl⟩
  | _ :: b, i + 1, hi, hi0, hi1 => by
    simp only [encodeText_cons, List.length_cons] at hi hi0 hi1
    simpa [encodeText_cons, Nat.mul_succ] using
      getElem_encodeText sym b i (by omega) (by omega) (by omega)

/-! ### Nibbles -/

@[simp] theorem highNibble_append (h l : BitVec 4) : highNibble (h ++ l) = h :=
  BitVec.extractLsb'_append_eq_left

@[simp] theorem lowNibbleOf_append (h l : BitVec 4) : lowNibbleOf (h ++ l) = l :=
  BitVec.extractLsb'_append_eq_right

@[simp] theorem highNibble_append_lowNibbleOf (b : Byte) : highNibble b ++ lowNibbleOf b = b :=
  BitVec.extractLsb'_append_extractLsb'

/-- A byte as the pseudocode writes it, `16 * h + l` (40_text_codecs R122). -/
theorem toNat_nibbles (h l : BitVec 4) : (h ++ l).toNat = 16 * h.toNat + l.toNat := by
  rw [BitVec.toNat_append, ← Nat.shiftLeft_add_eq_or_of_lt l.isLt, Nat.shiftLeft_eq, Nat.mul_comm]

/-! ### One codec undoes the other -/

namespace SymbolTable

variable {sym : BitVec 4 → Byte} (T : SymbolTable sym) {t b : List Byte}
include T

/-- Encoding then decoding is the identity (40_text_codecs R127 clause 1). -/
theorem decodeText_encodeText (b : List Byte) :
    decodeText (symbolValue sym) (encodeText sym b) = some b := by
  induction b with
  | nil => rfl
  | cons x b ih =>
    rw [encodeText_cons, decodeText_cons_cons_eq_some_iff]
    exact ⟨_, _, b, T.symbolValue_sym _, T.symbolValue_sym _, ih,
      by rw [highNibble_append_lowNibbleOf]⟩

/-- Decoding then encoding lowers the letters (40_text_codecs R127 clause 4). -/
theorem encodeText_of_decodeText : ∀ {t b : List Byte},
    decodeText (symbolValue sym) t = some b → encodeText sym b = t.map lowerCase
  | [], b, decoded => by cases decoded; rfl
  | [_], _, decoded => by cases decoded
  | x :: y :: t, _, decoded => by
    obtain ⟨h, l, b, hx, hy, ht, rfl⟩ := decodeText_cons_cons_eq_some_iff.mp decoded
    rw [encodeText_cons, highNibble_append, lowNibbleOf_append, encodeText_of_decodeText ht,
      List.map_cons, List.map_cons, T.symbolValue_eq_some_iff.mp hx, T.symbolValue_eq_some_iff.mp hy]

/-- Decoding then encoding is the identity on lower-case texts (40_text_codecs R127 clause 2). -/
theorem decodeText_of_symbols (even : t.length % 2 = 0) (symbols : ∀ ch ∈ t, ch ∈ allNibbles.map sym) :
    ∃ b, decodeText (symbolValue sym) t = some b ∧ encodeText sym b = t := by
  have symbol : ∀ ch ∈ t, ∃ k, sym k = ch := fun ch mem => by
    obtain ⟨k, -, hk⟩ := List.mem_map.mp (symbols ch mem)
    exact ⟨k, hk⟩
  have lowered : t.map lowerCase = t := by
    refine (List.map_congr_left fun ch mem => ?_).trans (List.map_id t)
    obtain ⟨k, rfl⟩ := symbol ch mem
    exact T.lower k
  cases decoded : decodeText (symbolValue sym) t with
  | none =>
    rcases decodeText_eq_none_iff.mp decoded with odd | ⟨ch, mem, unknown⟩
    · omega
    · obtain ⟨k, rfl⟩ := symbol ch mem
      simp [T.symbolValue_sym] at unknown
  | some b => exact ⟨b, rfl, by rw [T.encodeText_of_decodeText decoded, lowered]⟩

end SymbolTable

/-! ### The outcome of a decoder -/

theorem orInvalidEncoding_eq_ok_iff {r : Option (List Byte)} {b : List Byte} :
    orInvalidEncoding r = .ok b ↔ r = some b := by
  cases r <;> simp [orInvalidEncoding]

theorem orInvalidEncoding_eq_error_iff {r : Option (List Byte)} :
    orInvalidEncoding r = .error .invalidEncoding ↔ r = none := by
  cases r <;> simp [orInvalidEncoding]

/-- The failures of a decoder, as characters outside a written-out alphabet (40_text_codecs R122, R126). -/
theorem decoder_rejects_iff {sym : BitVec 4 → Byte} {alphabet : List Byte}
    (known : (bothCases sym).eraseDups = alphabet) (t : List Byte) :
    orInvalidEncoding (decodeText (symbolValue sym) t) = .error .invalidEncoding ↔
      t.length % 2 = 1 ∨ ∃ ch ∈ t, ch ∉ alphabet := by
  simp only [orInvalidEncoding_eq_error_iff, decodeText_eq_none_iff, symbolValue_eq_none_iff, ← known,
    List.mem_eraseDups]

/-- Settles O10: a character has no nibble exactly when it is outside the alphabet in both cases. -/
theorem decodersRejectExactly : Obligations.DecodersRejectExactly := by
  unfold Obligations.DecodersRejectExactly
  exact ⟨decoder_rejects_iff eraseDups_bothCases_alphaA, decoder_rejects_iff eraseDups_bothCases_hexD⟩

/-- What a decoder accepts (40_text_codecs R127 clauses 3 and 4). -/
theorem SymbolTable.decoder_accepts {sym : BitVec 4 → Byte} (T : SymbolTable sym) {t b : List Byte}
    (accepted : orInvalidEncoding (decodeText (symbolValue sym) t) = .ok b) :
    2 * b.length = t.length ∧ encodeText sym b = t.map lowerCase :=
  have decoded := orInvalidEncoding_eq_ok_iff.mp accepted
  ⟨length_decodeText decoded, T.encodeText_of_decodeText decoded⟩

/-- A decoder accepts every text in the encoder's own form (40_text_codecs R127 clause 2). -/
theorem SymbolTable.decoder_canonical {sym : BitVec 4 → Byte} (T : SymbolTable sym) {t : List Byte}
    (even : t.length % 2 = 0) (symbols : ∀ ch ∈ t, ch ∈ allNibbles.map sym) :
    ∃ b, orInvalidEncoding (decodeText (symbolValue sym) t) = .ok b ∧ encodeText sym b = t := by
  simpa only [orInvalidEncoding_eq_ok_iff] using T.decodeText_of_symbols even symbols

/-- Settles O9: the four laws of R127 for each of the two tables. -/
theorem textCodecLaws : Obligations.TextCodecLaws := by
  unfold Obligations.TextCodecLaws
  refine ⟨?symbols, ?inverse, ?mhxLowers, ?hexLowers, ?mhxCanonical, ?hexCanonical⟩
  case symbols => exact fun k => ⟨some_getD_toNat rfl k, some_getD_toNat rfl k⟩
  case inverse =>
    exact fun b => ⟨orInvalidEncoding_eq_ok_iff.mpr (alphaA_table.decodeText_encodeText b),
      orInvalidEncoding_eq_ok_iff.mpr (hexD_table.decodeText_encodeText b),
      length_encodeText alphaA b, length_encodeText hexD b⟩
  case mhxLowers => exact fun _ _ accepted => alphaA_table.decoder_accepts accepted
  case hexLowers => exact fun _ _ accepted => hexD_table.decoder_accepts accepted
  case mhxCanonical => exact fun _ even symbols => alphaA_table.decoder_canonical even symbols
  case hexCanonical => exact fun _ even symbols => hexD_table.decoder_canonical even symbols

end Sys2Proof.Machine

/-! PROOFS. What a command with operand `DIN` and result `DOUT` leaves (10_state R27, 60_exceptions R268). -/

namespace Sys2Proof.Machine

/-! ### The operand -/

theorem State.length_dinOperand (s : State) : s.dinOperand.length = s.dinLen.toNat :=
  Memory.length_readBytes _ _

theorem State.getElem_dinOperand (s : State) (i : Nat) (hi : i < s.dinOperand.length) :
    s.dinOperand[i] = s.din.read i := Memory.getElem_readBytes _ _ _ hi

theorem State.mem_dinOperand {s : State} {ch : Byte} :
    ch ∈ s.dinOperand ↔ ∃ i < s.dinLen.toNat, s.din.read i = ch := by
  simp [dinOperand, Memory.readBytes]

theorem State.withDin_fits {s : State} (h : s.dinLen.toNat ≤ Config.bufCap) (q : BitVec 8)
    (k : List Byte → State → State) : (s.begin q).withDin k = k s.dinOperand (s.begin q) :=
  if_neg (Nat.not_lt.mpr h)

/-- A length beyond the buffer is the error entry and nothing else (60_exceptions R268, R270). -/
theorem State.withDin_tooLong {s : State} (h : Config.bufCap < s.dinLen.toNat) (q : BitVec 8)
    (k : List Byte → State → State) :
    (s.begin q).withDin k = s.endedErr .badOperand s.agents := if_pos h

/-! ### The result -/

/-- A result committed to `DOUT` is the command's answer (10_state R27, R30). -/
theorem State.answers_putResult {s : State} (wf : s.dout.wf) (q : BitVec 8) (bs : List Byte) :
    answers s ((s.begin q).putResult bs).complete id bs := by
  refine ⟨⟨Memory.readBytes_writeBytes wf bs, fun j above => ?_⟩, rfl⟩
  exact (Memory.read_writeBytes wf 0 bs j).trans (if_neg (by omega))

namespace answers

variable {s t : State} {f : Status → Status} {bs : List Byte} (a : answers s t f bs)
include a

theorem doutLen_eq : t.doutLen = BitVec.ofNat 32 bs.length := congrArg State.doutLen a.2

/-- Nothing but the result and the control registers changes (10_state R27). -/
theorem frame : t = { s with dout := t.dout, doutLen := t.doutLen }.endedOk f := by
  rw [a.doutLen_eq]
  exact a.2

/-- A result that fits `DOUT` has a length that fits `DOUT_LEN` (log 1). -/
theorem toNat_doutLen (fits : bs.length ≤ 2 * Config.bufCap) : t.doutLen.toNat = bs.length := by
  have := Config.bufCap_fits
  rw [a.doutLen_eq, BitVec.toNat_ofNat, Nat.mod_eq_of_lt (by omega)]

theorem read_result {i : Nat} (hi : i < bs.length) : t.dout.read i = bs[i] := by
  obtain ⟨⟨result, -⟩, -⟩ := a
  simp only [← Memory.getElem_readBytes t.dout bs.length i (by simpa), result]

theorem read_above {j : Nat} (above : bs.length ≤ j) : t.dout.read j = s.dout.read j := a.1.2 j above

end answers

end Sys2Proof.Machine

/-! PROOFS. The four text codec commands (40_text_codecs R128 to R131): one argument for both encoders and
one for both decoders. -/

namespace Sys2Proof.Machine

/-! ### Encoders -/

/-- The command writes the text of its operand to `DOUT` (40_text_codecs R128, R130). -/
def Instr.Encodes (i : Instr) (sym : BitVec 4 → Byte) : Prop :=
  ∀ s, exec i s = .next
    ((s.begin 0x10).withDin fun b s => (s.putResult (encodeText sym b)).complete)

theorem mhxEnc_encodes : Instr.Encodes .mhxEnc alphaA := fun _ => rfl

theorem hexEnc_encodes : Instr.Encodes .hexEnc hexD := fun _ => rfl

namespace Instr.Encodes

variable {i : Instr} {sym : BitVec 4 → Byte} (run : Instr.Encodes i sym) {s : State}
include run

/-- The operand is within the buffer: two symbols a byte, high nibble first. -/
theorem completes (wf : s.dout.wf) (fits : s.dinLen.toNat ≤ Config.bufCap) :
    ∃ t, exec i s = .next t ∧
      t = { s with dout := t.dout, doutLen := t.doutLen }.endedOk id ∧
      t.doutLen.toNat = 2 * s.dinLen.toNat ∧
      (∀ i < s.dinLen.toNat,
        t.dout.read (2 * i) = sym (highNibble (s.din.read i)) ∧
        t.dout.read (2 * i + 1) = sym (lowNibbleOf (s.din.read i))) ∧
      ∀ j, 2 * s.dinLen.toNat ≤ j → t.dout.read j = s.dout.read j := by
  have a := State.answers_putResult wf 0x10 (encodeText sym s.dinOperand)
  have len : (encodeText sym s.dinOperand).length = 2 * s.dinLen.toNat := by
    rw [length_encodeText, s.length_dinOperand]
  refine ⟨_, (run s).trans (congrArg _ (State.withDin_fits fits ..)), a.frame, ?length,
    fun i hi => ?symbols, fun j above => a.read_above (len ▸ above)⟩
  case length => rw [a.toNat_doutLen (by omega), len]
  case symbols =>
    rw [a.read_result (by omega), a.read_result (by omega), ← s.getElem_dinOperand]
    exact getElem_encodeText sym s.dinOperand i (s.length_dinOperand ▸ hi) (by omega) (by omega)

theorem tooLong (long : Config.bufCap < s.dinLen.toNat) :
    exec i s = .next (s.endedErr .badOperand s.agents) :=
  (run s).trans (congrArg _ (State.withDin_tooLong long ..))

end Instr.Encodes

/-! ### Decoders -/

/-- The command writes the bytes of its operand, a text, to `DOUT`, or fails (40_text_codecs R129,
R131). -/
def Instr.Decodes (i : Instr) (val : Byte → Option (BitVec 4)) : Prop :=
  ∀ s, exec i s = .next ((s.begin 0x10).withDin fun t s =>
    s.finishWith (orInvalidEncoding (decodeText val t)) State.putResult)

theorem mhxDec_decodes : Instr.Decodes .mhxDec aval := fun _ => rfl

theorem hexDec_decodes : Instr.Decodes .hexDec hval := fun _ => rfl

/-- Bytes of `DIN` at and above `DIN_LEN` are not looked at (40_text_codecs R129). -/
theorem decodeText_dinOperand_eq_none_iff {val : Byte → Option (BitVec 4)} {s : State} :
    decodeText val s.dinOperand = none ↔
      s.dinLen.toNat % 2 = 1 ∨ ∃ i < s.dinLen.toNat, val (s.din.read i) = none := by
  simp only [decodeText_eq_none_iff, s.length_dinOperand, State.mem_dinOperand, exists_exists_and_eq_and]

namespace Instr.Decodes

variable {i : Instr} {val : Byte → Option (BitVec 4)} (run : Instr.Decodes i val) {s : State}
include run

/-- The operand is within the buffer and decodes. -/
theorem of_decoded {b : List Byte} (fits : s.dinLen.toNat ≤ Config.bufCap)
    (decoded : decodeText val s.dinOperand = some b) :
    exec i s = .next ((s.begin 0x10).putResult b).complete := by
  rw [run s, State.withDin_fits fits, decoded]
  rfl

/-- A valid text: a byte is sixteen times the value of its first symbol plus that of its second. -/
theorem completes (wf : s.dout.wf) (fits : s.dinLen.toNat ≤ Config.bufCap)
    (even : s.dinLen.toNat % 2 = 0) (valid : ∀ i < s.dinLen.toNat, val (s.din.read i) ≠ none) :
    ∃ t, exec i s = .next t ∧
      t = { s with dout := t.dout, doutLen := t.doutLen }.endedOk id ∧
      t.doutLen.toNat = s.dinLen.toNat / 2 ∧
      (∀ i < s.dinLen.toNat / 2, ∃ h l, val (s.din.read (2 * i)) = some h ∧
        val (s.din.read (2 * i + 1)) = some l ∧
        (t.dout.read i).toNat = 16 * h.toNat + l.toNat) ∧
      ∀ j, s.dinLen.toNat / 2 ≤ j → t.dout.read j = s.dout.read j := by
  obtain ⟨b, decoded⟩ : ∃ b, decodeText val s.dinOperand = some b := by
    refine Option.ne_none_iff_exists'.mp fun failed => ?_
    rcases decodeText_dinOperand_eq_none_iff.mp failed with odd | ⟨i, hi, bad⟩
    · omega
    · exact valid i hi bad
  have operand := s.length_dinOperand
  have len : 2 * b.length = s.dinLen.toNat := (length_decodeText decoded).trans operand
  have a := State.answers_putResult wf 0x10 b
  refine ⟨_, run.of_decoded fits decoded, a.frame, ?length, fun i hi => ?byte,
    fun j above => a.read_above (by omega)⟩
  case length => rw [a.toNat_doutLen (by omega)]; omega
  case byte =>
    obtain ⟨h, l, first, second, byte⟩ :=
      getElem_decodeText decoded i (by omega) (by omega) (by omega)
    rw [s.getElem_dinOperand] at first second
    refine ⟨h, l, first, second, ?_⟩
    rw [a.read_result (by omega), byte, toNat_nibbles]

/-- Odd length or a bad character. -/
theorem rejects (fits : s.dinLen.toNat ≤ Config.bufCap)
    (bad : s.dinLen.toNat % 2 = 1 ∨ ∃ i < s.dinLen.toNat, val (s.din.read i) = none) :
    exec i s = .next (s.endedErr .invalidEncoding s.agents) := by
  rw [run s, State.withDin_fits fits, decodeText_dinOperand_eq_none_iff.mpr bad]
  rfl

theorem tooLong (long : Config.bufCap < s.dinLen.toNat) :
    exec i s = .next (s.endedErr .badOperand s.agents) :=
  (run s).trans (congrArg _ (State.withDin_tooLong long ..))

end Instr.Decodes

/-! ### The obligations -/

/-- Settles O11: the encoder over Alphabet-A. -/
theorem mhxEncResult : Obligations.MhxEncResult := by
  unfold Obligations.MhxEncResult
  exact ⟨decode_of_eq_code (by rfl) [], fun _ wf =>
    ⟨mhxEnc_encodes.completes wf, mhxEnc_encodes.tooLong⟩⟩

/-- Settles O12: the encoder over the hex digits. -/
theorem hexEncResult : Obligations.HexEncResult := by
  unfold Obligations.HexEncResult
  exact ⟨decode_of_eq_code (by rfl) [], fun _ wf =>
    ⟨hexEnc_encodes.completes wf, hexEnc_encodes.tooLong⟩⟩

/-- Settles O13: the decoder over Alphabet-A. -/
theorem mhxDecResult : Obligations.MhxDecResult := by
  unfold Obligations.MhxDecResult
  exact ⟨decode_of_eq_code (by rfl) [], fun _ wf =>
    ⟨mhxDec_decodes.completes wf, mhxDec_decodes.rejects, mhxDec_decodes.tooLong⟩⟩

/-- Settles O14: the decoder over the hex digits. -/
theorem hexDecResult : Obligations.HexDecResult := by
  unfold Obligations.HexDecResult
  exact ⟨decode_of_eq_code (by rfl) [], fun _ wf =>
    ⟨hexDec_decodes.completes wf, hexDec_decodes.rejects, hexDec_decodes.tooLong⟩⟩

end Sys2Proof.Machine

/-! PROOFS. The checksum engine (41_checksum). One idea carries both laws: bits that have entered the
register and not yet reached its bit 0 take no part in the update, they are only shifted. -/

namespace Sys2Proof.Machine

/-! ### Exclusive-or and the update -/

/-- Exclusive-or commutes with the shift: of the bits `y` entered at once, bit 0 takes part in this step
and the others wait (41_checksum R142). -/
theorem crcShift_xor (c y : BitVec 16) :
    crcShift (c ^^^ y) = crcBit c (y.getLsbD 0) ^^^ (y >>> 1) := by
  rw [crcShift, crcBit, BitVec.getLsbD_xor, BitVec.ushiftRight_xor_distrib]
  split
  · rw [BitVec.xor_assoc, BitVec.xor_assoc, BitVec.xor_comm (y >>> 1)]
  · rfl

theorem crcShifts_succ (n : Nat) (c : BitVec 16) : crcShifts (n + 1) c = crcShift (crcShifts n c) := by
  induction n generalizing c with
  | zero => rfl
  | succ n ih => exact ih (crcShift c)

/-- `n` steps, one bit of `y` entering before each, bit 0 first (41_checksum R142). -/
def crcBits (n : Nat) (y c : BitVec 16) : BitVec 16 :=
  (List.range n).foldl (fun c i => crcBit c (y.getLsbD i)) c

theorem crcBits_succ (n : Nat) (y c : BitVec 16) :
    crcBits (n + 1) y c = crcBit (crcBits n y c) (y.getLsbD n) := by
  rw [crcBits, List.range_succ, List.foldl_concat]
  rfl

/-- The byte-wise register after `n` steps is the bit-serial one with the bits still to come entered. -/
theorem crcShifts_xor (n : Nat) (c y : BitVec 16) :
    crcShifts n (c ^^^ y) = crcBits n y c ^^^ (y >>> n) := by
  induction n with
  | zero => rw [BitVec.ushiftRight_zero]; rfl
  | succ n ih =>
    rw [crcShifts_succ, ih, crcShift_xor, crcBits_succ, BitVec.getLsbD_ushiftRight,
      ← BitVec.shiftRight_add]
    rfl

/-! ### The two forms -/

theorem crcByteSerial_eq_crcBits (c : BitVec 16) (b : Byte) :
    crcByteSerial c b = crcBits 8 (b.setWidth 16) c := by
  refine List.foldl_ext _ _ c fun c i hi => ?_
  have := List.mem_range.mp hi
  rw [BitVec.getLsbD_setWidth, decide_eq_true (by omega), Bool.true_and]

/-- After eight steps no bit of the byte is still to come. -/
theorem crcByte_eq_crcByteSerial (c : BitVec 16) (b : Byte) : crcByte c b = crcByteSerial c b := by
  have entered : b.setWidth 16 >>> 8 = 0#16 := by bv_omega
  rw [crcByte, crcShifts_xor, entered, BitVec.xor_zero, crcByteSerial_eq_crcBits]

/-- Settles O15: the two forms agree at every byte, so they agree at every fold over bytes. -/
theorem checksumFormsAgree : Obligations.ChecksumFormsAgree := by
  unfold Obligations.ChecksumFormsAgree
  intro data
  exact List.foldl_ext _ _ _ fun c b _ => crcByte_eq_crcByteSerial c b

/-! ### The residual law -/

/-- Bits above the low `n` are shifted down by `n` steps and change nothing else. -/
theorem crcShifts_xor_of_low_zero (n : Nat) (c y : BitVec 16) (low : ∀ i < n, y.getLsbD i = false) :
    crcShifts n (c ^^^ y) = crcShifts n c ^^^ (y >>> n) := by
  have waits : crcBits n y c = crcBits n 0#16 c :=
    List.foldl_ext _ _ c fun c i hi => by rw [low i (List.mem_range.mp hi), BitVec.getLsbD_zero]
  have zero := crcShifts_xor n c 0#16
  rw [BitVec.xor_zero, BitVec.zero_ushiftRight, BitVec.xor_zero] at zero
  rw [crcShifts_xor, waits, zero]

/-- A low byte of ones, eight steps on: what the low byte of the complement makes of any register. -/
theorem crcShifts_ones : crcShifts 8 0xFF#16 = 0x0F78#16 := by decide

/-- The low byte of the complement makes the low byte of the register all ones; of the register itself
only the high byte is left. -/
theorem crcByte_complement_low (c : BitVec 16) :
    crcByte c (byteOf (~~~ c) 0) = 0x0F78#16 ^^^ (c >>> 8) := by
  have entered : c ^^^ (byteOf (~~~ c) 0).setWidth 16 = 0xFF#16 ^^^ (c >>> 8 <<< 8) := by
    ext i hi
    interval_cases i <;> simp [byteOf]
  have low : ∀ i < 8, (c >>> 8 <<< 8).getLsbD i = false := fun i hi => by simp [hi]
  have high : c >>> 8 <<< 8 >>> 8 = c >>> 8 := by
    ext i
    simpa using BitVec.lt_of_getLsbD
  rw [crcByte, entered, crcShifts_xor_of_low_zero 8 _ _ low, high, crcShifts_ones]

/-- The high byte of the complement then cancels that byte. -/
theorem crcByte_complement_high (c k : BitVec 16) :
    crcByte (k ^^^ (c >>> 8)) (byteOf (~~~ c) 1) = crcShifts 8 (k ^^^ 0xFF#16) := by
  have cancelled : (c >>> 8) ^^^ (byteOf (~~~ c) 1).setWidth 16 = 0xFF#16 := by
    ext i hi
    interval_cases i <;> simp [byteOf]
  rw [crcByte, BitVec.xor_assoc, cancelled]

theorem crc16_append (data more : List Byte) : crc16 (data ++ more) = more.foldl crcByte (crc16 data) :=
  List.foldl_append

/-- Settles O16: nothing of the checksum is left in the register after its complement has entered, so
the residual is one constant. -/
theorem checksumResidual : Obligations.ChecksumResidual := by
  unfold Obligations.ChecksumResidual
  intro data
  calc crc16 (data ++ le16 (~~~ crc16 data))
      = crcByte (crcByte (crc16 data) (byteOf (~~~ crc16 data) 0)) (byteOf (~~~ crc16 data) 1) :=
        crc16_append _ _
    _ = crcShifts 8 (0x0F78#16 ^^^ 0xFF#16) := by
        rw [crcByte_complement_low, crcByte_complement_high]
    _ = 0xF0B8 := by decide

/-! ### The command -/

theorem exec_crc16 (s : State) : exec .crc16 s = execCrc16 s := rfl

/-- Settles O17: `CRCREG` is the only result, and the operand check the only error. -/
theorem crc16Result : Obligations.Crc16Result := by
  unfold Obligations.Crc16Result
  refine ⟨decode_of_eq_code (by rfl) [], fun s => ⟨fun fits => ?_, fun long => ?_⟩⟩
  · rw [exec_crc16, execCrc16, State.withDin_fits fits]
    rfl
  · rw [exec_crc16, execCrc16, State.withDin_tooLong long]

end Sys2Proof.Machine

/-! PROOFS. The cipher adapter's two commands (42_cipher_adapter R155 to R159): one argument for every
function of a key and a block, of which the cipher and its inverse are two. -/

namespace Sys2Proof.Machine

/-! ### The key operand -/

theorem State.length_kinOperand (s : State) : s.kinOperand.length = s.kinLen.toNat :=
  Memory.length_readBytes _ _

theorem State.withKin_fits {s : State} (h : s.kinLen.toNat ≤ 32) (q : BitVec 8)
    (k : List Byte → State → State) : (s.begin q).withKin k = k s.kinOperand (s.begin q) :=
  if_neg (Nat.not_lt.mpr h)

/-- A key length beyond the buffer is the error entry and nothing else (60_exceptions R268, R270). -/
theorem State.withKin_tooLong {s : State} (h : 32 < s.kinLen.toNat) (q : BitVec 8)
    (k : List Byte → State → State) :
    (s.begin q).withKin k = s.endedErr .badOperand s.agents := if_pos h

/-! ### The adapter's check -/

theorem cipherCall_toList (f : Bytes 16 → Bytes 16 → Bytes 16) (k b : Bytes 16) :
    cipherCall f k.toList b.toList = .ok (f k b) := by
  simp [cipherCall]

theorem cipherCall_wrong_length (f : Bytes 16 → Bytes 16 → Bytes 16) {key block : List Byte}
    (h : key.length ≠ 16 ∨ block.length ≠ 16) : cipherCall f key block = .error .invalidLength := by
  rcases cipherCall_cases f key block with ⟨k, b, rfl, rfl, -⟩ | ⟨-, rejected⟩
  · simp at h
  · exact rejected

/-! ### The commands -/

/-- The command answers `f` of the key in `KIN` and the block in `DIN`, or fails (42_cipher_adapter R158,
R159). -/
def Instr.Ciphers (i : Instr) (f : Bytes 16 → Bytes 16 → Bytes 16) : Prop :=
  ∀ s, exec i s = .next ((s.begin 0x10).withDin fun block s => s.withKin fun key s =>
    s.finishWith (cipherCall f key block) fun out s => s.putResult out.toList)

theorem aesEnc_ciphers : Instr.Ciphers .aesEnc Config.E := fun _ => rfl

theorem aesDec_ciphers : Instr.Ciphers .aesDec Config.Dc := fun _ => rfl

namespace Instr.Ciphers

variable {i : Instr} {f : Bytes 16 → Bytes 16 → Bytes 16} (run : Instr.Ciphers i f) {s : State}
include run

/-- Both lengths are within their buffers: what is left is the adapter's check of the two operands. -/
theorem of_fits (dinFits : s.dinLen.toNat ≤ Config.bufCap) (kinFits : s.kinLen.toNat ≤ 32) :
    exec i s = .next ((s.begin 0x10).finishWith (cipherCall f s.kinOperand s.dinOperand)
      fun out s => s.putResult out.toList) := by
  rw [run s, State.withDin_fits dinFits, State.withKin_fits kinFits]

/-- A key and a block of 16 bytes each. -/
theorem completes (wf : s.dout.wf) (k b : Bytes 16) (kinLen : s.kinLen = 16) (dinLen : s.dinLen = 16)
    (key : s.kin.readBytes 16 = k.toList) (block : s.din.readBytes 16 = b.toList) :
    ∃ t, exec i s = .next t ∧ answers s t id (f k b).toList := by
  have keyOperand : s.kinOperand = k.toList := by rw [State.kinOperand, kinLen]; exact key
  have blockOperand : s.dinOperand = b.toList := by rw [State.dinOperand, dinLen]; exact block
  have dinFits : s.dinLen.toNat ≤ Config.bufCap := by
    rw [dinLen]
    exact Nat.le_trans (by decide) Config.bufCap_ge
  have kinFits : s.kinLen.toNat ≤ 32 := by rw [kinLen]; decide
  refine ⟨_, ?_, State.answers_putResult wf 0x10 (f k b).toList⟩
  rw [run.of_fits dinFits kinFits, keyOperand, blockOperand, cipherCall_toList]
  rfl

/-- A length within its buffer that is not 16 (42_cipher_adapter R156). -/
theorem rejects (dinFits : s.dinLen.toNat ≤ Config.bufCap) (kinFits : s.kinLen.toNat ≤ 32)
    (wrong : s.kinLen ≠ 16 ∨ s.dinLen ≠ 16) :
    exec i s = .next (s.endedErr .invalidLength s.agents) := by
  have wrongLength : s.kinOperand.length ≠ 16 ∨ s.dinOperand.length ≠ 16 := by
    rw [s.length_kinOperand, s.length_dinOperand]
    exact wrong.imp BitVec.toNat_ne.mp BitVec.toNat_ne.mp
  rw [run.of_fits dinFits kinFits, cipherCall_wrong_length f wrongLength]
  rfl

/-- Either length beyond its buffer; `DIN` is looked at first, and the error is the same. -/
theorem tooLong (long : Config.bufCap < s.dinLen.toNat ∨ 32 < s.kinLen.toNat) :
    exec i s = .next (s.endedErr .badOperand s.agents) := by
  rw [run s]
  rcases Nat.lt_or_ge Config.bufCap s.dinLen.toNat with dinLong | dinFits
  · rw [State.withDin_tooLong dinLong]
  · have kinLong := long.resolve_left (Nat.not_lt.mpr dinFits)
    rw [State.withDin_fits dinFits, State.withKin_tooLong kinLong]

end Instr.Ciphers

/-! ### The obligations -/

/-- Settles O18: the function is the cipher. -/
theorem aesEncResult : Obligations.AesEncResult := by
  unfold Obligations.AesEncResult
  exact ⟨decode_of_eq_code (by rfl) [], fun _ wf =>
    ⟨aesEnc_ciphers.completes wf, aesEnc_ciphers.rejects, aesEnc_ciphers.tooLong⟩⟩

/-- Settles O19: the function is the cipher's inverse. -/
theorem aesDecResult : Obligations.AesDecResult := by
  unfold Obligations.AesDecResult
  exact ⟨decode_of_eq_code (by rfl) [], fun _ wf =>
    ⟨aesDec_ciphers.completes wf, aesDec_ciphers.rejects, aesDec_ciphers.tooLong⟩⟩

end Sys2Proof.Machine

/-! PROOFS. The OTP block codec (43_block_codec). Two ideas carry its laws: the bytes of a field put
together again are the field, and the fourteen bytes the checksum is taken of do not hold the Checksum
field. -/

namespace Sys2Proof.Machine

/-! ### Byte order -/

@[simp] theorem byteOf_append_zero {w : Nat} (v : BitVec w) (x : Byte) : byteOf (v ++ x) 0 = x :=
  BitVec.extractLsb'_append_eq_right

@[simp] theorem byteOf_append_succ {w : Nat} (v : BitVec w) (x : Byte) (i : Nat) :
    byteOf (v ++ x) (i + 1) = byteOf v i := by
  rw [byteOf, BitVec.extractLsb'_append_eq_of_le (by omega)]
  rfl

@[simp] theorem byteOf_byte_zero (x : Byte) : byteOf x 0 = x := BitVec.extractLsb'_eq_self

/-- The two bytes of a value, put together again (00_scope R12). -/
@[simp] theorem byteOf_one_append_zero (v : BitVec 16) : byteOf v 1 ++ byteOf v 0 = v :=
  BitVec.extractLsb'_append_extractLsb'

/-- The three bytes of a Timestamp, put together again (30_encoding R94). -/
@[simp] theorem byteOf_two_append_one_append_zero (v : BitVec 24) :
    byteOf v 2 ++ byteOf v 1 ++ byteOf v 0 = v := by
  have upper : byteOf v 2 ++ byteOf v 1 = v.extractLsb' 8 16 :=
    BitVec.extractLsb'_append_extractLsb'_eq_extractLsb' rfl
  rw [upper]
  exact BitVec.extractLsb'_append_extractLsb'

/-! ### Parse and serialize -/

@[simp] theorem parseBlock_serialize (f : Block) : parseBlock (serialize f) = f := by
  obtain ⟨uid, ctr, tstp, sess, rnd, crc⟩ := f
  have uidBytes : #v[uid[0], uid[1], uid[2], uid[3], uid[4], uid[5]] = uid :=
    Vector.toList_inj.mp (toList_uid uid).symm
  simp [parseBlock, serialize, uidBytes]

@[simp] theorem serialize_parseBlock (img : Bytes 16) : serialize (parseBlock img) = img := by
  refine Vector.ext fun k hk => ?_
  interval_cases k <;> simp [serialize, parseBlock]

/-- Settles O21: byte by byte, each field is read from where it was written. -/
theorem serializeParseInverse : Obligations.SerializeParseInverse := by
  unfold Obligations.SerializeParseInverse
  exact ⟨parseBlock_serialize, serialize_parseBlock⟩

theorem serialize_injective : Function.Injective serialize :=
  Function.LeftInverse.injective parseBlock_serialize

/-! ### The stamp -/

/-- The fourteen bytes before the Checksum field (43_block_codec R171, R172). -/
def Block.dataBytes (f : Block) : List Byte :=
  f.uid.toList ++ le16 f.ctr ++ [byteOf f.tstp 0, byteOf f.tstp 1, byteOf f.tstp 2, f.sess] ++ le16 f.rnd

theorem toList_serialize (f : Block) : (serialize f).toList = f.dataBytes ++ le16 f.crc := by
  rw [Block.dataBytes, toList_uid]
  rfl

theorem Block.length_dataBytes (f : Block) : f.dataBytes.length = 14 := by
  simp [dataBytes, le16]

theorem stamp_eq (f : Block) : stamp f = ~~~ crc16 f.dataBytes := by
  rw [stamp, toList_serialize, List.take_left' f.length_dataBytes]

/-- A block's own checksum is not among the bytes its stamp is taken of (43_block_codec R177). -/
theorem stamp_stamped (f : Block) : stamp f.stamped = stamp f := by
  rw [stamp_eq, stamp_eq]
  rfl

theorem Block.stamped_stamped (f : Block) : f.stamped.stamped = f.stamped := by
  rw [stamped, stamp_stamped]
  rfl

/-- Settles O22: a stamped block is fourteen bytes with the complement of their checksum appended, so
the residual law of the checksum is the law. -/
theorem stampedBlockResidual : Obligations.StampedBlockResidual := by
  unfold Obligations.StampedBlockResidual
  intro f
  calc crc16 (serialize { f with crc := stamp f }).toList
      = crc16 (f.dataBytes ++ le16 (~~~ crc16 f.dataBytes)) := by
        rw [toList_serialize, stamp_eq]
        rfl
    _ = 0xF0B8 := checksumResidual f.dataBytes

/-! ### Emit -/

theorem mhxEnc_injective : Function.Injective mhxEnc := fun b c same => by
  have decoded := congrArg (decodeText (symbolValue alphaA)) same
  rw [mhxEnc, mhxEnc, alphaA_table.decodeText_encodeText, alphaA_table.decodeText_encodeText] at decoded
  exact Option.some.inj decoded

/-- The cipher is a permutation under each key (42_cipher_adapter R155 clause 3, log 2). -/
theorem E_injective (key : Bytes 16) : Function.Injective (Config.E key) := (Config.cipher key).injective

/-- Serialize, encrypt and encode lose nothing of a block. -/
theorem mhxEnc_E_serialize_injective (key : Bytes 16) :
    Function.Injective fun f => mhxEnc (Config.E key (serialize f)).toList := fun _ _ same =>
  serialize_injective (E_injective key (Vector.toList_inj.mp (mhxEnc_injective same)))

/-- Settles O23: the text determines the stamped block, which holds the five fields as they were given. -/
theorem emitIsInjective : Obligations.EmitIsInjective := by
  unfold Obligations.EmitIsInjective
  intro key f g
  refine ⟨_, _, _, _, emitBlock_key key f, emitBlock_key key g, length_mhxEnc_toList _, fun same => ?_⟩
  have stamped : f.stamped = g.stamped := mhxEnc_E_serialize_injective key same
  simp only [Block.stamped, Block.mk.injEq] at stamped
  obtain ⟨uid, ctr, tstp, sess, rnd, -⟩ := stamped
  exact ⟨uid, ctr, tstp, sess, rnd⟩

end Sys2Proof.Machine

/-! PROOFS. The three block commands (43_block_codec R177 to R179). -/

namespace Sys2Proof.Machine

theorem exec_blkStamp (s : State) :
    exec .blkStamp s = .next ({ s with block := s.block.stamped }.endedOk id) := rfl

theorem block_of_exec_blkStamp {s t : State} (run : exec .blkStamp s = .next t) :
    t.block = s.block.stamped := by
  rw [exec_blkStamp] at run
  rw [← Host.Outcome.next.inj run, State.endedOk_block]

/-- Settles O24: a second run stamps a stamped block. -/
theorem blkStampResult : Obligations.BlkStampResult := by
  unfold Obligations.BlkStampResult
  refine ⟨decode_of_eq_code (by rfl) [], fun s => ⟨?once, fun t u first second => ?twice⟩⟩
  case once =>
    rw [exec_blkStamp, Block.stamped, stamp_eq]
    rfl
  case twice =>
    rw [block_of_exec_blkStamp second, block_of_exec_blkStamp first, Block.stamped_stamped]

/-- The answer is the block as it stands; `blkSer` does not stamp (43_block_codec R178). -/
theorem State.blkSer_answers {s : State} (wf : s.dout.wf) :
    ∃ t, exec .blkSer s = .next t ∧ answers s t id (serialize s.block).toList :=
  ⟨_, rfl, answers_putResult wf 0x10 _⟩

/-- Settles O25: `F_CRC` is serialized as it stands and no block register is written, so the result is
the image of the block after the command too. -/
theorem blkSerResult : Obligations.BlkSerResult := by
  unfold Obligations.BlkSerResult
  refine ⟨decode_of_eq_code (by rfl) [], fun s wf => ?_⟩
  obtain ⟨t, run, answer⟩ := State.blkSer_answers wf
  refine ⟨t, run, toList_serialize s.block ▸ answer, ?_⟩
  obtain ⟨⟨result, -⟩, frame⟩ := answer
  have block : t.block = s.block := by rw [frame, State.endedOk_block]
  rwa [Vector.length_toList, ← block] at result

theorem exec_blkEmit (s : State) :
    exec .blkEmit s = .next ((s.begin 0x10).withKin fun key s =>
      s.finishWith (emitBlock key s.block) fun r s =>
        { s with block := { s.block with crc := r.1 } }.putResult r.2) := rfl

/-- Settles O26: the stamp is committed with the text or, on an error, not at all. -/
theorem blkEmitResult : Obligations.BlkEmitResult := by
  unfold Obligations.BlkEmitResult
  refine ⟨decode_of_eq_code (by rfl) [], fun s wf =>
    ⟨fun k kinLen key => ?completes, fun fits wrong => ?rejects, fun long => ?tooLong⟩⟩
  case completes =>
    have fits : s.kinLen.toNat ≤ 32 := by rw [kinLen]; decide
    have keyOperand : s.kinOperand = k.toList := by rw [State.kinOperand, kinLen]; exact key
    refine ⟨_, ?_, State.answers_putResult
      (s := { s with block := { s.block with crc := stamp s.block } }) wf 0x10 _⟩
    rw [exec_blkEmit, State.withKin_fits fits, keyOperand, emitBlock_key]
    rfl
  case rejects =>
    have wrongKey : s.kinOperand.length ≠ 16 := by
      rw [s.length_kinOperand]
      exact BitVec.toNat_ne.mp wrong
    rw [exec_blkEmit, State.withKin_fits fits, emitBlock_wrong_key wrongKey]
    rfl
  case tooLong => rw [exec_blkEmit, State.withKin_tooLong long]

end Sys2Proof.Machine

/-! PROOFS. PonRand, its low nibble and the Timestamp as numbers (44_state_machine R206, R210, R217). -/

namespace Sys2Proof.Machine

/-! ### PonRand -/

theorem toNat_clearNibble (pr : BitVec 32) : (clearNibble pr).toNat = pr.toNat / 16 * 16 := by
  have masked : clearNibble pr = pr >>> 4 <<< 4 := by
    ext i hi
    interval_cases i <;> simp [clearNibble]
  have := pr.isLt
  rw [masked, BitVec.toNat_shiftLeft, BitVec.toNat_ushiftRight, Nat.shiftRight_eq_div_pow,
    Nat.shiftLeft_eq]
  omega

/-- What a drawn answer leaves in PonRand (44_state_machine R191, R201). -/
theorem toNat_clearNibble_setWidth (d : BitVec 128) :
    (clearNibble (d.setWidth 32)).toNat = d.toNat % 2 ^ 32 / 16 * 16 := by
  rw [toNat_clearNibble, BitVec.toNat_setWidth]

theorem toNat_lowNibble (pr : BitVec 32) : (lowNibble pr).toNat = pr.toNat % 16 := by
  simp [lowNibble]

/-- The nibble test of step 3 (44_state_machine R206). -/
theorem six_lt_lowNibble_iff {pr : BitVec 32} : 6 < lowNibble pr ↔ 6 < pr.toNat % 16 := by
  rw [BitVec.lt_def, toNat_lowNibble]
  rfl

/-! ### The Timestamp -/

theorem toNat_timestamp (now created : Time) (pr : BitVec 32) :
    (timestamp now created pr).toNat =
      ((now.toNat - created.toNat) * 8 + pr.toNat) % 16777215 := by
  rw [timestamp, BitVec.toNat_ofNat]
  omega

/-- Settles O37: the one reduction is the value; a period adds `8 * 0xFFFFFF` to what is reduced, and
`2 ^ 24` is one more than the modulus. -/
theorem timestampIsExact : Obligations.TimestampIsExact := by
  unfold Obligations.TimestampIsExact
  intro now created pr order
  refine ⟨toNat_timestamp now created pr, ?bound, fun later period => ?periodic, ?congruence⟩
  case bound =>
    rw [toNat_timestamp]
    omega
  case periodic =>
    apply BitVec.eq_of_toNat_eq
    rw [toNat_timestamp, toNat_timestamp]
    omega
  case congruence => omega

end Sys2Proof.Machine

/-! PROOFS. `CREATE` and `CREATE_OVR` when the agents deliver (44_state_machine R191, R195). -/

namespace Sys2Proof.Machine

theorem exec_create (s : State) :
    exec .create s = .next ((s.begin 0x10).createToken none none none 1) := rfl

/-- An initial counter at its greatest value has no successor (60_exceptions R268). -/
theorem exec_createOvr_badOperand {s : State} (last : s.ovr.initCtr = 0xFFFF) :
    exec .createOvr s = .next (s.endedErr .badOperand s.agents) :=
  congrArg Host.Outcome.next (if_pos last)

theorem exec_createOvr {s : State} (h : s.ovr.initCtr ≠ 0xFFFF) :
    exec .createOvr s = .next ((s.begin 0x10).createToken s.ovr.suppliedPubId s.ovr.suppliedPrivId
      s.ovr.suppliedKey (s.ovr.initCtr + 1)) :=
  congrArg Host.Outcome.next (if_neg h)

/-- The two fixed bytes and the four drawn, in order (30_encoding R99). -/
theorem toList_prefixed (r : Bytes 4) : (prefixed r).toList = [0x22, 0x22] ++ r.toList := by
  refine List.ext_getElem (by simp) fun k hk _ => ?_
  simp only [Vector.length_toList] at hk
  interval_cases k <;> simp [prefixed]

/-- A field of a new token by its mask bit: the override register, or what is drawn (10_state R26,
44_state_machine R195). -/
theorem exists_fieldSource {n : Nat} {bit : Bool} {reg : Bytes n} (drawn : BitVec 128 → Bytes n)
    {used : List (Option (BitVec 128))}
    (h : bit = true ∧ used = [] ∨ bit = false ∧ ∃ a, used = [some a]) :
    ∃ b, FieldSource (if bit then some reg else none) drawn used b ∧ (bit = true → b = reg) ∧
      ∀ a, used = [some a] → b = drawn a := by
  rcases h with ⟨rfl, rfl⟩ | ⟨rfl, a, rfl⟩
  · exact ⟨reg, .inl ⟨rfl, rfl⟩, fun _ => rfl, nofun⟩
  · exact ⟨drawn a, .inr ⟨rfl, a, rfl, rfl⟩, nofun, fun _ same => by cases same; rfl⟩

/-- A token just created is well formed if its Counter is within the ceiling (10_state R31). -/
theorem State.WF.of_new {s : State} (counter : s.token.counter ≤ 0x7FFF)
    (session : s.token.session = 1) (created : s.token.created = s.token.lastUse)
    (token : s.status.token = true) : s.WF where
  counter := counter
  session := by rw [session]; decide
  created := created ▸ BitVec.le_refl _
  token := token

/-- Settles O27: nothing is supplied, so each of the three byte fields is drawn. -/
theorem createResult : Obligations.CreateResult := by
  unfold Obligations.CreateResult
  refine ⟨decode_of_eq_code (by rfl) [], fun s now ts a b c d ds times draws => ?_⟩
  have run := State.createToken_delivers (s := s.begin 0x10) (c := 1) (d := d) (ds := ds)
    (.inr ⟨rfl, a, rfl, rfl⟩) (.inr ⟨rfl, b, rfl, rfl⟩) (.inr ⟨rfl, c, rfl, rfl⟩) times draws
  refine ⟨_, (exec_create s).trans (congrArg _ run), rfl, toList_prefixed _, rfl, ?key, rfl, rfl, rfl,
    rfl, toNat_clearNibble_setWidth d, ?wf⟩
  case key => exact congrArg (bytesOfDraw 16) (BitVec.setWidth_eq c)
  case wf => exact .of_new (show (1 : BitVec 16) ≤ 0x7FFF by decide) rfl rfl rfl

/-- Settles O28: each byte field comes from where its mask bit says. -/
theorem createOvrResult : Obligations.CreateOvrResult := by
  unfold Obligations.CreateOvrResult
  refine ⟨decode_of_eq_code (by rfl) [], fun s => ⟨exec_createOvr_badOperand, ?_⟩⟩
  intro successor now ts d pubs privs keys ds times draws pubBit privBit keyBit
  obtain ⟨pub, pubSource, pubSupplied, pubDrawn⟩ := exists_fieldSource (reg := s.ovr.pubId)
    (fun a => prefixed (bytesOfDraw 4 (a.setWidth 32))) pubBit
  obtain ⟨priv, privSource, privSupplied, privDrawn⟩ := exists_fieldSource (reg := s.ovr.privId)
    (fun a => bytesOfDraw 6 (a.setWidth (8 * 6))) privBit
  obtain ⟨key, keySource, keySupplied, keyDrawn⟩ := exists_fieldSource (reg := s.ovr.key)
    (fun a => bytesOfDraw 16 (a.setWidth (8 * 16))) keyBit
  have run := State.createToken_delivers (s := s.begin 0x10) (c := s.ovr.initCtr + 1) (d := d)
    (ds := ds) pubSource privSource keySource times (by simpa using draws)
  refine ⟨_, (exec_createOvr successor).trans (congrArg _ run), rfl, pubSupplied, fun a used => ?pubId,
    privSupplied, privDrawn, keySupplied, fun a used => ?key, ?counter, rfl, rfl, rfl,
    toNat_clearNibble_setWidth d⟩
  case pubId => exact (congrArg Vector.toList (pubDrawn a used)).trans (toList_prefixed _)
  case key => exact (keyDrawn a used).trans (congrArg (bytesOfDraw 16) (BitVec.setWidth_eq a))
  case counter =>
    show (s.ovr.initCtr + 1).toNat = s.ovr.initCtr.toNat + 1
    bv_omega

end Sys2Proof.Machine

/-! PROOFS. `REG_EXPORT` (44_state_machine R220). -/

namespace Sys2Proof.Machine

/-! ### The token check -/

theorem State.withToken_present {s : State} (h : s.status.token = true) (q : BitVec 8)
    (k : State → State) : (s.begin q).withToken k = k (s.begin q) := if_pos h

/-- Without a token there is the error entry and nothing else (60_exceptions R269, R270). -/
theorem State.withToken_absent {s : State} (h : s.status.token = false) (q : BitVec 8)
    (k : State → State) : (s.begin q).withToken k = s.endedErr .noToken s.agents :=
  if_neg (ne_true_of_eq_false h)

/-! ### The command -/

theorem exec_regExport (s : State) :
    exec .regExport s = .next ((s.begin 0x10).withToken fun s =>
      (s.putResult s.token.registration).complete) := rfl

/-- Settles O43: the three fields with the separators between them are the registration text, of 60
characters. -/
theorem regExportResult : Obligations.RegExportResult := by
  unfold Obligations.RegExportResult
  refine ⟨decode_of_eq_code (by rfl) [], fun s wf => ⟨fun present => ?exports, fun absent => ?fails⟩⟩
  case exports =>
    have answer := State.answers_putResult wf 0x10 s.token.registration
    refine ⟨_, ?run, answer.doutLen_eq.trans ?length, answer⟩
    case run => rw [exec_regExport, State.withToken_present present]; rfl
    case length => rw [length_registration]; rfl
  case fails => rw [exec_regExport, State.withToken_absent absent]

end Sys2Proof.Machine

/-! PROOFS. `EMIT_OTP` when the agents deliver: its steps 1, 3 and 4 to 7 under the relations of the
statements, then the command at once and after its wait (44_state_machine R200, R208). -/

namespace Sys2Proof.Machine

/-! ### Step 1 -/

/-- Step 1 as the relation of the statements says it, and step 2 with a listed reading: what is left is
step 3 on these local values (44_state_machine R201, R205). -/
theorem State.emitRun_of_stepOne {s : State} {now : Time} {ts : List Time}
    {rest : List (Option (BitVec 128))} {c : BitVec 16} {ses : BitVec 8} {pr : BitVec 32}
    (present : s.status.token = true) (times : s.agents.times = now :: ts)
    (one : stepOne s.token s.agents.draws rest c ses pr) :
    s.emitStart.emitRun =
      (({ s.begin 0x01 with agents := { s.agents with times := ts, draws := rest } } : State).toStage
        .collide { s.token.locals with ctr := c, sess := ses, ponRand := pr, now := now }).emitMoves 5 := by
  have clock (l : EmitLocals) :
      ((State.drawsLeft (s.begin 0x01) rest).toStage .clock l).emitMoves 6 =
        (({ s.begin 0x01 with agents := { s.agents with times := ts, draws := rest } } : State).toStage
          .collide { l with now := now }).emitMoves 5 := by
    rw [emitMoves_clock (n := 0)]
    exact withNow_listed times
  rw [emitRun_start, withToken_present present, emitMoves_advance (n := 0)]
  rcases one with ⟨low, rfl, up, rfl, rfl⟩ | ⟨wrap, room, up, rfl, d, draws, drawn⟩
  · have noWrap : (s.begin 0x01).token.locals.sess ≠ 0xFF := BitVec.toNat_ne.mpr low
    have next : ses = s.token.session + 1 := by bv_omega
    subst next
    rw [if_neg noWrap]
    exact clock { s.token.locals with sess := s.token.session + 1 }
  · have wraps : (s.begin 0x01).token.locals.sess = 0xFF := BitVec.eq_of_toNat_eq wrap
    have below : ¬ 0x7FFF ≤ (s.begin 0x01).token.locals.ctr := by
      rw [BitVec.not_le]
      exact room
    have next : c = s.token.counter + 1 := by bv_omega
    have fresh : pr = clearNibble (d.setWidth 32) :=
      BitVec.eq_of_toNat_eq (drawn.trans (toNat_clearNibble_setWidth d).symm)
    subst next fresh
    rw [if_pos wraps, if_neg below, withDraw_listed (s := s.begin 0x01) draws]
    exact clock { s.token.locals with
      ctr := s.token.counter + 1, sess := 1, ponRand := clearNibble (d.setWidth 32) }

/-! ### Step 3 -/

/-- Cases A and B as the relation of the statements says them (44_state_machine R206). -/
theorem State.emitMoves_of_stepThree {l : EmitLocals} {lu' : Time} {pr' : BitVec 32}
    (three : stepThree l.now l.lastUse l.ponRand lu' pr') (s : State) :
    (s.toStage .collide l).emitMoves 5 = s.emitTail { l with lastUse := lu', ponRand := pr' } := by
  rw [emitMoves_collide (n := 0)]
  rcases three with ⟨later, rfl, cleared⟩ | ⟨same, low, rfl, next⟩
  · have low : pr' = clearNibble l.ponRand :=
      BitVec.eq_of_toNat_eq (cleared.trans (toNat_clearNibble _).symm)
    rw [if_neg later, low]
  · have next : pr' = l.ponRand + 1 := by bv_omega
    rw [if_pos same, if_neg (by rw [six_lt_lowNibble_iff]; omega), next]

/-- Case C (44_state_machine R206, R208). -/
theorem State.emitMoves_of_full {l : EmitLocals} (same : l.now = l.lastUse)
    (full : 6 < l.ponRand.toNat % 16) (s : State) :
    (s.toStage .collide l).emitMoves 5 = { s with status := s.status.waiting }.toStage .hold l := by
  rw [emitMoves_collide (n := 0), if_pos same, if_pos (six_lt_lowNibble_iff.mpr full)]

/-! ### Steps 4 to 7 -/

theorem length_otpText (t : Token) (f : Block) : (otpText t f).length = 44 := by
  rw [otpText, List.length_append, length_mhxEnc_toList, length_mhxEnc_toList]

/-- The registers that step 7 commits from the local values `l`, without `DOUT` (44_state_machine R212). -/
def State.emitCommit (s : State) (l : EmitLocals) : State :=
  { s with token := { s.token with counter := l.ctr, session := l.sess, lastUse := l.lastUse,
                                   ponRand := l.ponRand } }

/-- Under the indications that the start of a command leaves, a completion is a success with no other flag
changed (10_state R30, R32). -/
theorem State.complete_eq_endedOk {s : State} (noErr : s.err = 0) (noErrf : s.status.errf = false) :
    s.complete = s.endedOk id := by
  simp only [complete, endedOk, Status.succeeded, id, noErr, noErrf]

/-- Steps 4 to 7 with the draw delivering and the reading not before `CREATED`, in a command whose start
cleared the indications (44_state_machine R210 to R212). -/
theorem State.emitTail_delivers {s : State} {l : EmitLocals} {d : BitVec 128}
    {rest : List (Option (BitVec 128))} (noErr : s.err = 0) (noErrf : s.status.errf = false)
    (created : s.token.created.toNat ≤ l.now.toNat) (draws : s.agents.draws = some d :: rest) :
    s.emitTail l = (((s.drawsLeft rest).emitCommit l).putResult
      (otpText s.token (emitted s.token l.ctr l.sess l.now l.ponRand d))).endedOk Status.emitted := by
  rw [emitTail, if_neg (BitVec.not_lt.mpr created), withDraw_listed draws]
  exact complete_eq_endedOk noErr noErrf

/-- A result committed by a command that succeeds is its answer (10_state R27, R30). -/
theorem answers_of_eq {s t : State} {f : Status → Status} {bs : List Byte} (wf : s.dout.wf)
    (h : t = (s.putResult bs).endedOk f) : answers s t f bs := by
  subst h
  exact ⟨(State.answers_putResult wf 0x10 bs).1, rfl⟩

/-! ### The command at once -/

theorem exec_emitOtp (s : State) : exec .emitOtp s = .next s.emitStart.emitRun := rfl

/-- Settles O30: step 1, then case A or B of step 3, then steps 4 to 7. -/
theorem emitOtpCompletes : Obligations.EmitOtpCompletes := by
  unfold Obligations.EmitOtpCompletes
  refine ⟨decode_of_eq_code (by rfl) [], ?_⟩
  intro s now ts d rest c ses pr lu' pr' wf present times one three created
  have run := (State.emitRun_of_stepOne present times one).trans
    ((State.emitMoves_of_stepThree three _).trans (State.emitTail_delivers rfl rfl created rfl))
  refine ⟨_, (exec_emitOtp s).trans (congrArg _ run), ?_⟩
  exact answers_of_eq wf rfl

/-- Settles O31: step 1, then case C of step 3. -/
theorem emitOtpEntersTheWait : Obligations.EmitOtpEntersTheWait := by
  unfold Obligations.EmitOtpEntersTheWait
  intro s now ts rest c ses pr present times one same full
  have run := (State.emitRun_of_stepOne present times one).trans (State.emitMoves_of_full same full _)
  exact ⟨_, rfl, rfl, rfl, rfl, rfl, (exec_emitOtp s).trans (congrArg _ run)⟩

/-! ### The command after its wait -/

theorem State.advance_held {s : State} {l : EmitLocals} (held : s.flight = .emit .hold l) :
    s.advance = .next (s.emitResume l) := by
  rw [advance, held]

section
variable {s : State} {l : EmitLocals} {r : Time} {ts : List Time}

/-- A reading not above `now` leaves the command held (44_state_machine R208). -/
theorem State.emitResume_stays (held : s.flight = .emit .hold l) (times : s.agents.times = r :: ts)
    (notLater : r.toNat ≤ l.now.toNat) :
    s.emitResume l = { s with agents := { s.agents with times := ts } } := by
  rw [emitResume_cases l s held, withNow_listed times, if_neg (BitVec.not_lt.mpr notLater)]

/-- A reading above `now` ends the wait, and steps 4 to 7 follow on it (44_state_machine R208, R209). -/
theorem State.emitResume_ends (held : s.flight = .emit .hold l) (times : s.agents.times = r :: ts)
    (later : l.now.toNat < r.toNat) :
    s.emitResume l =
      State.emitTail { l with now := r, ponRand := clearNibble l.ponRand }
        { s with agents := { s.agents with times := ts }, status := s.status.waitOver } := by
  rw [emitResume_cases l s held, withNow_listed times, if_pos (BitVec.lt_def.mpr later)]

end

/-- Settles O32: the local LastUse of a command held in its wait is `LASTUSE` (`State.Inv.follows`), so that
step 7 commits what the register holds. -/
theorem waitEndsAtALaterReading : Obligations.WaitEndsAtALaterReading := by
  unfold Obligations.WaitEndsAtALaterReading
  intro s l r ts inv noInput held times
  rw [step_of_inputs_nil noInput, State.advance_held held]
  refine ⟨fun notLater => ?stays, fun later created d rest pr' draws cleared => ?ends⟩
  case stays => rw [State.emitResume_stays held times notLater]
  case ends =>
    have running : s.Running := inv.running (by simp [held])
    obtain ⟨-, lastUse, -⟩ : l.follows s.token .hold := (held ▸ inv.follows :)
    obtain rfl : pr' = clearNibble l.ponRand :=
      BitVec.eq_of_toNat_eq (cleared.trans (toNat_clearNibble _).symm)
    have run := (State.emitResume_ends held times later).trans
      (State.emitTail_delivers running.noErr running.noErrf created draws)
    refine ⟨_, congrArg _ run, lastUse, ?_⟩
    have kept : { s.token with counter := l.ctr, session := l.sess, ponRand := clearNibble l.ponRand } =
        { s.token with counter := l.ctr, session := l.sess, lastUse := l.lastUse,
                       ponRand := clearNibble l.ponRand } := by rw [lastUse]
    rw [kept]
    exact answers_of_eq inv.doutWf rfl

end Sys2Proof.Machine

/-! PROOFS. What every emission does to the token registers, run at once or resumed after its wait
(44_state_machine R200 to R209, R215, R216). -/

namespace Sys2Proof.Machine

/-! ### Counter, Session and PonRand of the next emission -/

namespace Token.nextPair

variable {t : Token} {c : BitVec 16} {ses : BitVec 8} (pair : t.nextPair c ses)
include pair

/-- Session 0 is never issued (44_state_machine R202). -/
theorem session_ne_zero : ses ≠ 0 := by
  rcases pair with ⟨noWrap, -, rfl⟩ | ⟨-, -, -, rfl⟩
  · bv_omega
  · decide

/-- Counter changes at a session wrap only (44_state_machine R201). -/
theorem wraps_of_ne (changed : c ≠ t.counter) : t.session = 0xFF ∧ ses = 1 := by
  rcases pair with ⟨-, same, -⟩ | ⟨wraps, -, -, one⟩
  · exact absurd same changed
  · exact ⟨wraps, one⟩

/-- By one Session, or by one Counter with Session back at 1 (44_state_machine R201, R216). -/
theorem advances : c = t.counter ∧ ses.toNat = t.session.toNat + 1 ∨
    t.session = 0xFF ∧ ses = 1 ∧ c.toNat = t.counter.toNat + 1 := by
  rcases pair with ⟨noWrap, same, next⟩ | ⟨wraps, room, next, one⟩
  · exact .inl ⟨same, by bv_omega⟩
  · exact .inr ⟨wraps, one, by bv_omega⟩

theorem differs : ¬ (c = t.counter ∧ ses = t.session) := by
  rintro ⟨rfl, rfl⟩
  rcases pair.advances with ⟨-, next⟩ | ⟨-, -, next⟩ <;> omega

/-- The step stays within the ceiling (44_state_machine R203). -/
theorem counter_le (ceiling : t.counter ≤ 0x7FFF) : c ≤ 0x7FFF := by
  rcases pair with ⟨-, rfl, -⟩ | ⟨-, room, rfl, -⟩
  · exact ceiling
  · bv_omega

end Token.nextPair

namespace Token.nextRand

variable {t : Token} {pr : BitVec 32} (rand : t.nextRand pr)
include rand

/-- Step 3 touches the low nibble only (44_state_machine R207). -/
theorem upper_kept (noWrap : t.session ≠ 0xFF) : pr.toNat / 16 = t.ponRand.toNat / 16 := by
  obtain ⟨pr₁, kept, cases⟩ := rand
  rw [← kept noWrap]
  rcases cases with rfl | ⟨low, rfl⟩
  · rw [toNat_clearNibble]
    omega
  · have low := mt six_lt_lowNibble_iff.mpr (BitVec.not_lt.mpr low)
    bv_omega

/-- Case B is entered with a low nibble of at most 6 (44_state_machine R206, R207). -/
theorem low_le : pr.toNat % 16 ≤ 7 := by
  obtain ⟨pr₁, -, rfl | ⟨low, rfl⟩⟩ := rand
  · rw [toNat_clearNibble]
    omega
  · have low := mt six_lt_lowNibble_iff.mpr (BitVec.not_lt.mpr low)
    bv_omega

end Token.nextRand

/-! ### How an emission ends -/

/-- What a successful emission leaves, `lu` the value it commits to `LASTUSE`: the next Counter, Session and
PonRand, the other token registers as they were, and the text of a block with that Counter and Session
(44_state_machine R200, R212). -/
structure Emits (s t : State) (lu : Time) : Prop where
  pair : s.token.nextPair t.token.counter t.token.session
  rand : s.token.nextRand t.token.ponRand
  lastUse : t.token.lastUse = lu
  created : s.token.created ≤ s.token.lastUse → s.token.created ≤ lu
  secrets : t.token = { s.token with
    counter := t.token.counter, session := t.token.session, lastUse := t.token.lastUse,
    ponRand := t.token.ponRand }
  present : t.status.token = s.status.token
  text : ∃ f : Block, f.ctr = t.token.counter ∧ f.sess = t.token.session ∧
    t.dout = s.dout.writeBytes 0 (otpText s.token f)

/-- How an emission ends: by the error entry, held in its wait, or with success. -/
inductive Emission (s t : State) (lu : Time) : Prop where
  | failed (e : CmdError) (a : Agents) (h : t = s.endedErr e a)
  | held (l : EmitLocals) (flight : t.flight = .emit .hold l) (token : t.token = s.token)
      (present : t.status.token = s.status.token)
  | done (emits : Emits s t lu)

/-- Step 7 commits the local values (44_state_machine R212). -/
theorem Emits.of_emitFinish {s b : State} {l : EmitLocals} {r : BitVec 16} (token : b.token = s.token)
    (dout : b.dout = s.dout) (present : b.status.token = s.status.token)
    (pair : s.token.nextPair l.ctr l.sess) (rand : s.token.nextRand l.ponRand)
    (created : s.token.created ≤ s.token.lastUse → s.token.created ≤ l.lastUse) :
    Emits s (b.emitFinish (l.filled s.token r)) l.lastUse where
  pair := pair
  rand := rand
  lastUse := rfl
  created := created
  secrets := by
    rw [← token]
    rfl
  present := present
  text := by
    refine ⟨s.token.emissionBlock (l.filled s.token r), rfl, rfl, ?_⟩
    rw [← token, ← dout]
    rfl

/-- `EMIT_OTP` run at once commits its reading to `LASTUSE` (44_state_machine R206). -/
theorem State.emitRun_emission (s : State) : Emission s s.emitStart.emitRun s.agents.now.1 := by
  rcases s.emitRun_cases with ⟨-, run⟩ | ⟨-, -, -, run⟩ | ⟨-, -, ending⟩
  · exact .failed _ _ run
  · exact .failed _ _ run
  · cases ending with
    | failed a e _ run => exact .failed e a run
    | held a l _ run => rw [run]; exact .held l rfl rfl rfl
    | done a l r pair now lastUse created rand run =>
      rw [run, ← now, ← lastUse]
      exact .done (.of_emitFinish rfl rfl rfl pair rand fun _ => lastUse ▸ created)

/-- `EMIT_OTP` resumed after its wait commits to `LASTUSE` what the register holds (44_state_machine R209). -/
theorem State.Inv.emitResume_emission {s : State} {l : EmitLocals} (inv : s.Inv)
    (held : s.flight = .emit .hold l) : Emission s (s.emitResume l) s.token.lastUse := by
  obtain ⟨pair, lastUse, kept, -, -⟩ : l.follows s.token .hold := (held ▸ inv.follows :)
  rw [State.emitResume_cases l s held, State.withNow]
  split
  · rcases State.emitTail_cases { l with now := s.agents.now.1, ponRand := clearNibble l.ponRand }
      { s with agents := s.agents.now.2, status := s.status.waitOver } with
      ⟨-, run⟩ | ⟨-, run⟩ | ⟨-, r, run⟩
    · exact .failed _ _ run
    · exact .failed _ _ run
    · rw [run, ← lastUse]
      exact .done (.of_emitFinish rfl rfl rfl pair ⟨_, kept, .inl rfl⟩ fun h => lastUse ▸ h)
  · exact .held l held rfl rfl

theorem Flight.eq_hold_of_held {f : Flight} (held : f.held = true) : ∃ l, f = .emit .hold l := by
  unfold Flight.held at held
  split at held
  · exact ⟨_, rfl⟩
  · cases held

theorem State.Inv.advance_emission {s t : State} (inv : s.Inv) (held : s.flight.held = true)
    (run : s.advance = .next t) : Emission s t s.token.lastUse := by
  obtain ⟨l, flight⟩ := Flight.eq_hold_of_held held
  rw [State.advance_held flight] at run
  cases run
  exact inv.emitResume_emission flight

theorem exec_emitOtp_emission {s t : State} (run : exec .emitOtp s = .next t) :
    Emission s t s.agents.now.1 := by
  cases run
  exact s.emitRun_emission

theorem runsEmit.emission {s t : State} (run : runsEmit s t) : ∃ lu, Emission s t lu := by
  rcases run with run | ⟨inv, held, run⟩
  · exact ⟨_, exec_emitOtp_emission run⟩
  · exact ⟨_, inv.advance_emission held run⟩

/-! ### What every emission keeps -/

/-- `WF` speaks of the token registers and of `TOKEN` only (10_state R31). -/
theorem State.WF.of_same_token {s t : State} (h : s.WF) (token : t.token = s.token)
    (present : t.status.token = s.status.token) : t.WF where
  counter := by rw [token]; exact h.counter
  session := by rw [token]; exact h.session
  created := by rw [token]; exact h.created
  token := present.trans h.token

namespace Emission

variable {s t : State} {lu : Time} (e : Emission s t lu)
include e

/-- A failed emission and a held one leave the token registers as they were (44_state_machine R213). -/
theorem token_or_emits : t.token = s.token ∨ Emits s t lu := by
  cases e with
  | failed _ _ h => subst h; exact .inl rfl
  | held _ _ token => exact .inl token
  | done emits => exact .inr emits

/-- A command that has completed without an error has emitted. -/
theorem emits (completed : t.completed) (noErr : t.err = 0) : Emits s t lu := by
  obtain ⟨idle, -⟩ := completed
  cases e with
  | failed e _ h => subst h; exact absurd noErr e.code_ne_zero
  | held _ flight => exact nomatch flight.symm.trans idle
  | done emits => exact emits

theorem present : t.status.token = s.status.token := by
  cases e with
  | failed _ _ h => subst h; rfl
  | held _ _ _ present => exact present
  | done emits => exact emits.present

theorem lastUse_cases : t.token.lastUse = s.token.lastUse ∨ t.token.lastUse = lu :=
  e.token_or_emits.imp (congrArg Token.lastUse) Emits.lastUse

/-- An emission keeps `WF` (10_state R31, 44_state_machine R215). -/
theorem wf (h : s.WF) : t.WF := by
  rcases e.token_or_emits with same | emits
  · exact h.of_same_token same e.present
  · constructor
    · exact emits.pair.counter_le h.counter
    · exact emits.pair.session_ne_zero
    · rw [emits.lastUse, emits.secrets]; exact emits.created h.created
    · exact e.present.trans h.token

end Emission

/-- Settles O38: a failed or held emission leaves the token registers, a successful one the next Counter,
Session and PonRand. -/
theorem onlyAWrapChangesCounter : Obligations.OnlyAWrapChangesCounter := by
  unfold Obligations.OnlyAWrapChangesCounter
  intro s t run
  obtain ⟨lu, e⟩ := run.emission
  refine ⟨fun changed => ?counter, fun noWrap => ?upper, fun completed noErr => ?success⟩
  case counter =>
    rcases e.token_or_emits with same | emits
    · exact absurd (congrArg Token.counter same) changed
    · exact emits.pair.wraps_of_ne changed
  case upper =>
    rcases e.token_or_emits with same | emits
    · rw [same]
    · exact emits.rand.upper_kept noWrap
  case success =>
    have emits := e.emits completed noErr
    exact ⟨emits.pair.session_ne_zero, emits.rand.low_le⟩

/-! ### Two emissions in a row -/

/-- The Public ID and the key being the same, the text determines Counter and Session (43_block_codec
R175, log 2). -/
theorem otpText_injective {t : Token} {f g : Block} (same : otpText t f = otpText t g) :
    f.ctr = g.ctr ∧ f.sess = g.sess := by
  have stamped : f.stamped = g.stamped :=
    mhxEnc_E_serialize_injective t.key (List.append_cancel_left same)
  simp only [Block.stamped, Block.mk.injEq] at stamped
  obtain ⟨-, ctr, -, sess, -, -⟩ := stamped
  exact ⟨ctr, sess⟩

/-- The 44 characters in `DOUT` are the text of a block with the Counter and Session of the emission. -/
theorem Emits.readBytes_dout {s t : State} {lu : Time} (emits : Emits s t lu) (wf : s.dout.wf) :
    ∃ f : Block, f.ctr = t.token.counter ∧ f.sess = t.token.session ∧
      t.dout.readBytes 44 = otpText s.token f := by
  obtain ⟨f, ctr, sess, dout⟩ := emits.text
  refine ⟨f, ctr, sess, ?_⟩
  rw [dout, ← length_otpText s.token f]
  exact Memory.readBytes_writeBytes wf _

/-- Settles O39: equal texts would be those of one Counter and one Session, but the second emission moves
the pair on. -/
theorem successiveEmissionsDiffer : Obligations.SuccessiveEmissionsDiffer := by
  unfold Obligations.SuccessiveEmissionsDiffer
  intro s t v u wf wf' run completed noErr
  obtain ⟨lu, e⟩ := run.emission
  have first := e.emits completed noErr
  refine ⟨first.pair.advances, fun carried run' completed' noErr' same => ?_⟩
  obtain ⟨lu', e'⟩ := run'.emission
  have second := e'.emits completed' noErr'
  obtain ⟨f, fctr, fsess, ftext⟩ := first.readBytes_dout wf
  obtain ⟨g, gctr, gsess, gtext⟩ := second.readBytes_dout wf'
  have sameKey : otpText v.token g = otpText s.token g := by
    rw [carried, first.secrets]
    rfl
  obtain ⟨ctr, sess⟩ := otpText_injective (ftext.symm.trans (same.trans (gtext.trans sameKey)))
  refine second.pair.differs ⟨?_, ?_⟩
  · rw [carried, ← gctr, ← ctr, fctr]
  · rw [carried, ← gsess, ← sess, fsess]

end Sys2Proof.Machine

/-! PROOFS. What `CREATE` and `CREATE_OVR` do whatever the agents answer, and the ceiling of Counter
(44_state_machine R191, R195, R203). -/

namespace Sys2Proof.Machine

/-! ### Readings taken -/

/-- `b` is what is left of `a` after `m` readings of the time source and any draws. -/
def Agents.After (a b : Agents) (m : Nat) : Prop := ∀ k, b.reading k = a.reading (k + m)

theorem Agents.After.refl (a : Agents) : a.After a 0 := fun _ => rfl

theorem Agents.After.answer {a b : Agents} {m : Nat} (h : a.After b m) : a.After b.answer.2 m :=
  fun k => (b.answer_reading k).trans (h k)

theorem Agents.After.now {a b : Agents} {m : Nat} (h : a.After b m) : a.After b.now.2 (m + 1) :=
  fun k => by rw [b.now_reading, h, Nat.add_right_comm, Nat.add_assoc]

/-- The next reading is the first of those to come. -/
theorem Agents.After.now_fst {a b : Agents} {m : Nat} (h : a.After b m) : b.now.1 = a.reading m := by
  rw [← b.reading_zero, h, Nat.zero_add]

/-! ### Create, whatever the agents answer -/

/-- How `CREATE` and `CREATE_OVR` with the Counter `c` end: a draw failed, before or after the reading, or
a token stands with Session 1 and both its times the reading (44_state_machine R191, R195). -/
inductive CreateEnd (s : State) (c : BitVec 16) (t : State) : Prop where
  | failed (a : Agents) (m : Nat) (le : m ≤ 1) (after : s.agents.After a m)
      (h : t = s.endedErr .randomSourceFailure a)
  | done (a : Agents) (tok : Token) (after : s.agents.After a 1) (counter : tok.counter = c)
      (session : tok.session = 1) (created : tok.created = tok.lastUse)
      (lastUse : tok.lastUse = s.agents.reading 0)
      (h : t = { s with token := tok, agents := a }.endedOk Status.tokenLoaded)

namespace CreateEnd

variable {s : State} {c : BitVec 16} {n : Nat} {a : Agents}

theorem withDraw {m : Nat} {k : BitVec n → State → State} (le : m ≤ 1) (after : s.agents.After a m)
    (rest : ∀ v a', s.agents.After a' m → CreateEnd s c (k v { s.begin 0x10 with agents := a' })) :
    CreateEnd s c (({ s.begin 0x10 with agents := a } : State).withDraw n k) := by
  rcases State.withDraw_cases n { s.begin 0x10 with agents := a } k with ⟨v, -, run⟩ | ⟨-, run⟩
  · rw [run]; exact rest _ _ after.answer
  · exact .failed _ m le after.answer run

theorem withBytes {supplied : Option (Bytes n)} {k : Bytes n → State → State}
    (after : s.agents.After a 0)
    (rest : ∀ v a', s.agents.After a' 0 → CreateEnd s c (k v { s.begin 0x10 with agents := a' })) :
    CreateEnd s c (({ s.begin 0x10 with agents := a } : State).withBytes n supplied k) := by
  cases supplied with
  | none => exact .withDraw (Nat.zero_le 1) after fun _ => rest _
  | some b => exact rest b a after

theorem withPubId {supplied : Option (Bytes 6)} {k : Bytes 6 → State → State}
    (after : s.agents.After a 0)
    (rest : ∀ v a', s.agents.After a' 0 → CreateEnd s c (k v { s.begin 0x10 with agents := a' })) :
    CreateEnd s c (({ s.begin 0x10 with agents := a } : State).withPubId supplied k) := by
  cases supplied with
  | none =>
    exact .withBytes (supplied := none) (k := fun r s => k (prefixed r) s) after fun _ => rest _
  | some b => exact rest b a after

end CreateEnd

/-- Everything the body of Create can do. -/
theorem State.createToken_cases (s : State) (pub priv : Option (Bytes 6)) (key : Option (Bytes 16))
    (c : BitVec 16) : CreateEnd s c ((s.begin 0x10).createToken pub priv key c) := by
  refine CreateEnd.withPubId (a := s.agents) (.refl _) fun pubId a₁ after₁ =>
    .withBytes after₁ fun privId a₂ after₂ => .withBytes after₂ fun key a₃ after₃ => ?_
  rw [withNow]
  refine CreateEnd.withDraw (a := a₃.now.2) (Nat.le_refl 1) after₃.now fun pr a₄ after₄ => ?_
  exact .done a₄ _ after₄ rfl rfl rfl after₃.now_fst rfl

theorem exec_create_cases {s t : State} (run : exec .create s = .next t) : CreateEnd s 1 t := by
  cases run
  exact s.createToken_cases none none none 1

theorem exec_createOvr_cases {s t : State} (run : exec .createOvr s = .next t) :
    t = s.endedErr .badOperand s.agents ∨
      s.ovr.initCtr ≠ 0xFFFF ∧ CreateEnd s (s.ovr.initCtr + 1) t := by
  by_cases last : s.ovr.initCtr = 0xFFFF
  · rw [exec_createOvr_badOperand last] at run
    exact .inl (Host.Outcome.next.inj run).symm
  · rw [exec_createOvr last] at run
    cases run
    exact .inr ⟨last, s.createToken_cases ..⟩

theorem CreateEnd.token_or_counter {s t : State} {c : BitVec 16} (h : CreateEnd s c t) :
    t.token = s.token ∨ t.token.counter = c := by
  cases h with
  | failed _ _ _ _ h => subst h; exact .inl rfl
  | done _ _ _ counter _ _ _ h => subst h; exact .inr counter

/-! ### The ceiling of Counter -/

/-- Counter is at most `0x7FFF`, in the register and in an emission in flight (10_state R31). -/
def State.Ceiling (s : State) : Prop :=
  s.token.counter.toNat ≤ 0x7FFF ∧ ∀ st l, s.flight = .emit st l → l.ctr.toNat ≤ 0x7FFF

namespace State

variable {s t : State} {l : EmitLocals}

theorem ceiling_of_idle (h : s.token.counter.toNat ≤ 0x7FFF) (idle : s.flight = .idle) : s.Ceiling :=
  ⟨h, fun _ _ flight => nomatch idle.symm.trans flight⟩

theorem ceiling_toStage_iff {st : EmitStage} :
    (s.toStage st l).Ceiling ↔ s.token.counter.toNat ≤ 0x7FFF ∧ l.ctr.toNat ≤ 0x7FFF :=
  and_congr_right fun _ => ⟨fun h => h st l rfl, fun h _ _ flight => by cases flight; exact h⟩

theorem ceiling_withDraw {n : Nat} {k : BitVec n → State → State}
    (h : s.token.counter.toNat ≤ 0x7FFF)
    (rest : ∀ v, (k v { s with agents := s.agents.answer.2 }).Ceiling) : (s.withDraw n k).Ceiling := by
  rcases withDraw_cases n s k with ⟨v, -, run⟩ | ⟨-, run⟩
  · rw [run]; exact rest _
  · rw [run]; exact ceiling_of_idle h rfl

/-! #### The moves of the sequencer -/

/-- Step 1 refuses to take Counter above the ceiling (44_state_machine R201, R203). -/
theorem ceiling_emitAdvance (h : s.token.counter.toNat ≤ 0x7FFF) (ctr : l.ctr.toNat ≤ 0x7FFF) :
    (s.emitAdvance l).Ceiling := by
  unfold emitAdvance
  split
  · split
    · exact ceiling_of_idle h rfl
    · refine ceiling_withDraw h fun pr => ceiling_toStage_iff.mpr ⟨h, ?_⟩
      show (l.ctr + 1).toNat ≤ 0x7FFF
      bv_omega
  · exact ceiling_toStage_iff.mpr ⟨h, ctr⟩

theorem ceiling_emitCollide (h : s.token.counter.toNat ≤ 0x7FFF) (ctr : l.ctr.toNat ≤ 0x7FFF) :
    (s.emitCollide l).Ceiling := by
  unfold emitCollide
  split
  · split
    · exact ceiling_toStage_iff.mpr ⟨h, ctr⟩
    · exact ceiling_toStage_iff.mpr ⟨h, ctr⟩
  · exact ceiling_toStage_iff.mpr ⟨h, ctr⟩

theorem ceiling_emitStamp (h : s.token.counter.toNat ≤ 0x7FFF) (ctr : l.ctr.toNat ≤ 0x7FFF) :
    (s.emitStamp l).Ceiling := by
  unfold emitStamp
  split
  · exact ceiling_of_idle h rfl
  · exact ceiling_toStage_iff.mpr ⟨h, ctr⟩

theorem ceiling_emitBuild (h : s.token.counter.toNat ≤ 0x7FFF) (ctr : l.ctr.toNat ≤ 0x7FFF) :
    (s.emitBuild l).Ceiling := by
  rw [emitBuild, emitBlock_key]
  exact ceiling_toStage_iff.mpr ⟨h, ctr⟩

theorem Ceiling.emitHold (h : s.Ceiling) (held : s.flight = .emit .hold l) :
    (s.emitHold l).Ceiling := by
  obtain ⟨reg, loc⟩ := h
  unfold State.emitHold withNow
  simp only
  split
  · exact ceiling_toStage_iff.mpr ⟨reg, loc _ l held⟩
  · exact ⟨reg, loc⟩

theorem Ceiling.emitMove (h : s.Ceiling) : s.emitMove.Ceiling := by
  obtain ⟨reg, loc⟩ := h
  unfold State.emitMove
  split
  case h_1 l flight => exact ceiling_emitAdvance reg (loc _ l flight)
  case h_2 l flight => exact ceiling_toStage_iff.mpr ⟨reg, loc _ l flight⟩
  case h_3 l flight => exact ceiling_emitCollide reg (loc _ l flight)
  case h_4 => exact ⟨reg, loc⟩
  case h_5 l flight => exact ceiling_toStage_iff.mpr ⟨reg, loc _ l flight⟩
  case h_6 l flight => exact ceiling_emitStamp reg (loc _ l flight)
  case h_7 l flight =>
    exact ceiling_withDraw reg fun r => ceiling_toStage_iff.mpr ⟨reg, loc _ l flight⟩
  case h_8 l flight => exact ceiling_emitBuild reg (loc _ l flight)
  case h_9 l flight => exact ceiling_of_idle (loc _ l flight) rfl
  case h_10 => exact ⟨reg, loc⟩
  case h_11 => exact ⟨reg, loc⟩

theorem Ceiling.emitMoves (h : s.Ceiling) (n : Nat) : (s.emitMoves n).Ceiling := by
  induction n generalizing s with
  | zero => exact h
  | succ n ih => exact ih h.emitMove

theorem ceiling_emitStart (h : s.token.counter.toNat ≤ 0x7FFF) : s.emitStart.Ceiling := by
  unfold emitStart
  rcases withToken_cases (s.begin 0x01) fun s => s.toStage .advance s.token.locals with
    ⟨-, run⟩ | ⟨-, run⟩
  · rw [run]; exact ceiling_of_idle h rfl
  · rw [run]; exact ceiling_toStage_iff.mpr ⟨h, h⟩

end State

/-! #### The commands -/

theorem CreateEnd.flight_idle {s t : State} {c : BitVec 16} (h : CreateEnd s c t) :
    t.flight = .idle := by
  cases h with
  | failed _ _ _ _ h => subst h; rfl
  | done _ _ _ _ _ _ _ h => subst h; rfl

/-- A command that does not replace the token steps Counter on within the ceiling. -/
theorem CmdEnd.ceiling {i : Instr} {s t : State} (c : CmdEnd i s t)
    (keeps : i ∉ [Instr.create, .createOvr, .recLoad]) (h : s.token.counter.toNat ≤ 0x7FFF) :
    t.Ceiling := by
  cases c with
  | failed _ _ _ run => subst run; exact State.ceiling_of_idle h rfl
  | held _ _ l _ follows run =>
    subst run
    obtain ⟨pair, -⟩ := follows
    exact State.ceiling_toStage_iff.mpr ⟨h, pair.counter_le h⟩
  | done _ _ _ _ _ _ _ _ token _ _ _ run =>
    subst run
    refine State.ceiling_of_idle ?_ rfl
    cases token with
    | none _ same => subst same; exact h
    | loaded loads => exact absurd loads keeps
    | emitted _ l _ pair same => subst same; exact pair.counter_le h
    | saved _ same => subst same; exact h

theorem exec_ceiling {i : Instr} {s t : State} (notOvr : i ≠ .createOvr) (notLoad : i ≠ .recLoad)
    (h : s.token.counter.toNat ≤ 0x7FFF) (run : exec i s = .next t) : t.Ceiling := by
  by_cases create : i = .create
  · subst create
    have ending := exec_create_cases run
    refine State.ceiling_of_idle ?_ ending.flight_idle
    rcases ending.token_or_counter with same | one
    · rwa [same]
    · rw [one]; decide
  · obtain ⟨t', run', c⟩ := exec_cases i s
    obtain rfl : t' = t := Host.Outcome.next.inj (run'.symm.trans run)
    exact c.ceiling (by simp [create, notOvr, notLoad]) h

namespace State.Ceiling

variable {s t : State} {v : Byte}

theorem runLatched (h : s.Ceiling) (notOvr : v ≠ 0x51) (notLoad : v ≠ 0x60)
    (run : s.runLatched v = .next t) : t.Ceiling := by
  unfold State.runLatched at run
  split at run
  · rename_i i _ decoded
    obtain ⟨code, -⟩ := decode_cons_eq_ok_iff.mp decoded
    refine exec_ceiling ?_ ?_ h.1 run
    · rintro rfl; exact notOvr code
    · rintro rfl; exact notLoad code
  · cases run
    exact ceiling_of_idle h.1 rfl

theorem advance (h : s.Ceiling) (notOvr : s.flight ≠ .latched 0x51)
    (notLoad : s.flight ≠ .latched 0x60) (run : s.advance = .next t) : t.Ceiling := by
  unfold State.advance at run
  split at run
  case h_1 => cases run; exact h
  case h_2 v flight =>
    rw [flight] at notOvr notLoad
    exact h.runLatched (mt (congrArg _) notOvr) (mt (congrArg _) notLoad) run
  case h_3 l flight => cases run; exact (h.emitHold flight).emitMoves 7
  case h_4 => cases run; exact h.emitMoves 7

theorem tick (h : s.Ceiling) (notOvr : s.flight ≠ .latched 0x51)
    (notLoad : s.flight ≠ .latched 0x60) (run : s.tick = .next t) : t.Ceiling := by
  unfold State.tick at run
  split at run
  case h_1 => cases run; exact h
  case h_2 v flight =>
    rw [flight] at notOvr notLoad
    split at run
    · cases run; exact ceiling_emitStart h.1
    · exact h.runLatched (mt (congrArg _) notOvr) (mt (congrArg _) notLoad) run
  case h_3 l flight => cases run; exact h.emitHold flight
  case h_4 => cases run; exact h.emitMove

end State.Ceiling

/-- Settles O41: the ceiling is kept by every command but the two that take a Counter from outside, and by
every move of an emission in flight. -/
theorem counterCeilingHolds : Obligations.CounterCeilingHolds := by
  unfold Obligations.CounterCeilingHolds
  intro s t reg loc notOvr notLoad run
  have h : s.Ceiling := ⟨reg, loc⟩
  exact run.elim (h.advance notOvr notLoad) (h.tick notOvr notLoad)

end Sys2Proof.Machine

/-! PROOFS. `WF` and the order of the readings over every command (10_state R31, 44_state_machine R215,
60_exceptions R286). -/

namespace Sys2Proof.Machine

/-! ### `WF` -/

/-- `CREATE` and `CREATE_OVR` that do not fail establish `WF`, for a Counter within the ceiling. -/
theorem CreateEnd.failed_or_wf {s t : State} {c : BitVec 16} (h : CreateEnd s c t)
    (ceiling : c ≤ 0x7FFF) : (∃ a, t = s.endedErr .randomSourceFailure a) ∨ t.WF := by
  cases h with
  | failed a _ _ _ run => exact .inl ⟨a, run⟩
  | done a tok _ counter session created _ run =>
    subst run
    exact .inr (.of_new (counter ▸ ceiling :) session created rfl)

theorem CmdEnd.present_kept {i : Instr} {s t : State} (c : CmdEnd i s t)
    (keeps : i ∉ [Instr.create, .createOvr, .recLoad]) : t.status.token = s.status.token := by
  cases c with
  | failed _ _ _ run => subst run; rfl
  | held _ _ _ _ _ run => subst run; rfl
  | done _ _ _ _ _ _ _ _ token _ _ _ run =>
    subst run
    cases token with
    | none _ _ hf => subst hf; rfl
    | loaded loads => exact absurd loads keeps
    | emitted _ _ _ _ _ hf => subst hf; rfl
    | saved _ _ hf => subst hf; rfl

/-- Every command but `REC_LOAD`, `CREATE_OVR` and `EMIT_OTP` keeps `WF`: it creates a token with Counter 1,
or leaves the one there is. -/
theorem exec_wf {i : Instr} {s t : State} (notLoad : i ≠ .recLoad) (notOvr : i ≠ .createOvr)
    (notEmit : i ≠ .emitOtp) (run : exec i s = .next t) (h : s.WF) : t.WF := by
  by_cases create : i = .create
  · subst create
    rcases (exec_create_cases run).failed_or_wf (by decide) with ⟨a, failed⟩ | wf
    · subst failed
      exact h.of_same_token rfl rfl
    · exact wf
  · obtain ⟨t', run', c⟩ := exec_cases i s
    obtain rfl : t' = t := Host.Outcome.next.inj (run'.symm.trans run)
    have keeps : i ∉ [Instr.create, .createOvr, .recLoad] := by simp [create, notOvr, notLoad]
    rcases c.token_cases keeps with same | ⟨emits, -⟩
    · exact h.of_same_token same (c.present_kept keeps)
    · exact absurd emits notEmit

theorem exec_createOvr_wf {s t : State} (initCtr : s.ovr.initCtr.toNat ≤ 0x7FFE)
    (run : exec .createOvr s = .next t) (noErr : t.err = 0) : t.WF := by
  rcases exec_createOvr_cases run with failed | ⟨-, ending⟩
  · subst failed
    exact absurd noErr CmdError.badOperand.code_ne_zero
  · have ceiling : s.ovr.initCtr + 1 ≤ 0x7FFF := by bv_omega
    rcases ending.failed_or_wf ceiling with ⟨a, failed⟩ | wf
    · subst failed
      exact absurd noErr CmdError.randomSourceFailure.code_ne_zero
    · exact wf

/-! ### At most one reading -/

/-- From `s` to `t` at most one reading was taken, and `LASTUSE` is what it was or not after that reading. -/
def State.Timed (s t : State) : Prop :=
  ∃ m ≤ 1, s.agents.After t.agents m ∧
    (t.token.lastUse = s.token.lastUse ∨ m = 1 ∧ t.token.lastUse ≤ s.agents.reading 0)

/-- Of readings in order and not before `LASTUSE` those left after the command are so again
(44_state_machine R215). -/
theorem State.Timed.clockInOrder {s t : State} (h : s.Timed t) {n : Nat}
    (order : s.clockInOrder (n + 1)) : t.clockInOrder n := by
  obtain ⟨m, le, after, lastUse⟩ := h
  obtain ⟨ascends, notBefore⟩ := order
  refine ⟨fun j k jk kn => ?_, fun k kn => ?_⟩
  · rw [after, after]
    exact ascends _ _ (by omega) (by omega)
  · rw [after]
    rcases lastUse with same | ⟨rfl, early⟩
    · rw [same]
      exact notBefore _ (by omega)
    · exact BitVec.le_trans early (ascends 0 (k + 1) (by omega) (by omega))

/-- Nothing asked, or one reading that `LASTUSE` does not follow. -/
theorem State.Timed.of_lastUse_eq {s t : State} {m : Nat} (le : m ≤ 1)
    (after : s.agents.After t.agents m) (same : t.token.lastUse = s.token.lastUse) : s.Timed t :=
  ⟨m, le, after, .inl same⟩

/-! #### The commands that ask no agent -/

section
variable {s : State} {q : BitVec 8}

theorem State.agents_withDin {k : List Byte → State → State}
    (h : ∀ b, (k b (s.begin q)).agents = s.agents) : ((s.begin q).withDin k).agents = s.agents := by
  rcases (s.begin q).withDin_cases k with ⟨-, run⟩ | ⟨-, run⟩ <;> rw [run]
  · rfl
  · exact h _

theorem State.agents_withKin {k : List Byte → State → State}
    (h : ∀ b, (k b (s.begin q)).agents = s.agents) : ((s.begin q).withKin k).agents = s.agents := by
  rcases (s.begin q).withKin_cases k with ⟨-, run⟩ | ⟨-, run⟩ <;> rw [run]
  · rfl
  · exact h _

theorem State.agents_withToken {k : State → State} (h : (k (s.begin q)).agents = s.agents) :
    ((s.begin q).withToken k).agents = s.agents := by
  rcases (s.begin q).withToken_cases k with ⟨-, run⟩ | ⟨-, run⟩ <;> rw [run]
  · rfl
  · exact h

theorem State.agents_finishWith {α : Type} {r : Except CmdError α} {commit : α → State → State}
    (h : ∀ v, (commit v (s.begin q)).agents = s.agents) :
    ((s.begin q).finishWith r commit).agents = s.agents := by
  rcases (s.begin q).finishWith_cases r commit with ⟨v, -, run⟩ | ⟨e, -, run⟩ <;> rw [run]
  · exact h v
  · rfl

end

/-- Twelve commands ask neither the time source nor the random source (60_exceptions R285, R287). -/
theorem exec_agents {i : Instr} (silent : i ∉ [Instr.create, .createOvr, .emitOtp, .recLoad])
    (s : State) : ∃ t, exec i s = .next t ∧ t.agents = s.agents := by
  cases i <;> refine ⟨_, rfl, ?_⟩
  case mhxEnc => exact State.agents_withDin fun _ => rfl
  case hexEnc => exact State.agents_withDin fun _ => rfl
  case crc16 => exact State.agents_withDin fun _ => rfl
  case mhxDec => exact State.agents_withDin fun _ => State.agents_finishWith fun _ => rfl
  case hexDec => exact State.agents_withDin fun _ => State.agents_finishWith fun _ => rfl
  case aesEnc =>
    exact State.agents_withDin fun _ => State.agents_withKin fun _ =>
      State.agents_finishWith fun _ => rfl
  case aesDec =>
    exact State.agents_withDin fun _ => State.agents_withKin fun _ =>
      State.agents_finishWith fun _ => rfl
  case blkStamp => rfl
  case blkSer => rw [State.complete_agents, State.putResult_agents, State.begin_agents]
  case blkEmit => exact State.agents_withKin fun _ => State.agents_finishWith fun _ => rfl
  case regExport => exact State.agents_withToken rfl
  case recSave => exact State.agents_withToken rfl
  all_goals exact absurd (by decide) silent

/-! #### The commands that replace the token -/

theorem CreateEnd.timed {s t : State} {c : BitVec 16} (h : CreateEnd s c t) : s.Timed t := by
  cases h with
  | failed a m le after run => subst run; exact .of_lastUse_eq le after rfl
  | done a tok after _ _ _ lastUse run =>
    subst run
    exact ⟨1, Nat.le_refl 1, after, .inr ⟨rfl, lastUse ▸ BitVec.le_refl _⟩⟩

/-- `REC_LOAD`: an error before the reading, `ClockRollback`, or a record whose `lastuse` is not after the
reading (45_record R238, R239). -/
theorem exec_recLoad_cases (s : State) : ∃ t, exec .recLoad s = .next t ∧
    ((∃ e, t = s.endedErr e s.agents) ∨ t = s.endedErr .clockRollback s.agents.now.2 ∨
      ∃ u : Token, u.lastUse ≤ s.agents.now.1 ∧
        t = { s with token := u, agents := s.agents.now.2 }.endedOk Status.tokenLoaded) := by
  refine ⟨_, rfl, ?_⟩
  rcases Nat.lt_or_ge Config.bufCap s.dinLen.toNat with long | fits
  · exact .inl ⟨_, State.withDin_tooLong long ..⟩
  · rw [State.withDin_fits fits]
    cases parseRecord s.dinOperand with
    | error e => exact .inl ⟨e, rfl⟩
    | ok u =>
      by_cases early : s.agents.now.1 < u.lastUse
      · exact .inr (.inl (if_pos early))
      · exact .inr (.inr ⟨u, BitVec.not_lt.mp early, if_neg early⟩)

theorem exec_recLoad_timed {s t : State} (run : exec .recLoad s = .next t) : s.Timed t := by
  have asked : s.agents.After s.agents.now.2 1 := (Agents.After.refl _).now
  obtain ⟨t', run', ends⟩ := exec_recLoad_cases s
  obtain rfl : t' = t := Host.Outcome.next.inj (run'.symm.trans run)
  rcases ends with ⟨e, rfl⟩ | rfl | ⟨u, notLater, rfl⟩
  · exact .of_lastUse_eq (Nat.zero_le 1) (.refl _) rfl
  · exact .of_lastUse_eq (Nat.le_refl 1) asked rfl
  · exact ⟨1, Nat.le_refl 1, asked, .inr ⟨rfl, s.agents.reading_zero ▸ notLater⟩⟩

/-! #### The emission -/

namespace State.Timed

variable {s b : State} {l : EmitLocals}

/-- Steps 4 to 7 take no reading, and commit the local LastUse or nothing. -/
theorem emitTail {m : Nat} (le : m ≤ 1) (after : s.agents.After b.agents m) (token : b.token = s.token)
    (lastUse : l.lastUse = s.token.lastUse ∨ m = 1 ∧ l.lastUse ≤ s.agents.reading 0) :
    s.Timed (b.emitTail l) := by
  rcases State.emitTail_cases l b with ⟨-, run⟩ | ⟨-, run⟩ | ⟨-, r, run⟩ <;> rw [run]
  · exact .of_lastUse_eq le after (congrArg Token.lastUse token)
  · exact .of_lastUse_eq le after.answer (congrArg Token.lastUse token)
  · exact ⟨m, le, after.answer, lastUse⟩

/-- Steps 2 and 3 and what follows: one reading, which case A makes the local LastUse. -/
theorem emitMoves_clock (after : s.agents.After b.agents 0) (token : b.token = s.token)
    (lastUse : l.lastUse = s.token.lastUse) : s.Timed ((b.toStage .clock l).emitMoves 6) := by
  rw [State.emitMoves_clock (n := 0), State.withNow, State.emitMoves_collide (n := 0)]
  split
  · split
    · exact .of_lastUse_eq (Nat.le_refl 1) after.now (congrArg Token.lastUse token)
    · exact emitTail (Nat.le_refl 1) after.now token (.inl lastUse)
  · refine emitTail (Nat.le_refl 1) after.now token (.inr ⟨rfl, ?_⟩)
    show b.agents.now.1 ≤ _
    rw [after.now_fst]
    exact BitVec.le_refl _

/-- `EMIT_OTP` run at once reads the time only if step 1 does not fail (44_state_machine R200). -/
theorem emitRun (s : State) : s.Timed s.emitStart.emitRun := by
  rw [State.emitRun_start]
  rcases (s.begin 0x01).withToken_cases fun s => (s.toStage .advance s.token.locals).emitMoves 7 with
    ⟨-, run⟩ | ⟨-, run⟩ <;> rw [run]
  · exact .of_lastUse_eq (Nat.zero_le 1) (.refl _) rfl
  · rw [State.emitMoves_advance (n := 0)]
    split
    · split
      · exact .of_lastUse_eq (Nat.zero_le 1) (.refl _) rfl
      · unfold State.withDraw
        split
        · exact emitMoves_clock (Agents.After.refl _).answer rfl rfl
        · exact .of_lastUse_eq (Nat.zero_le 1) (Agents.After.refl _).answer rfl
    · exact emitMoves_clock (.refl _) rfl rfl

/-- A held command asks once, and leaves `LASTUSE` (44_state_machine R209). -/
theorem emitResume (inv : s.Inv) (held : s.flight = .emit .hold l) : s.Timed (s.emitResume l) := by
  have asked : s.agents.After s.agents.now.2 1 := (Agents.After.refl _).now
  obtain ⟨-, lastUse, -⟩ : l.follows s.token .hold := (held ▸ inv.follows :)
  rw [State.emitResume_cases l s held, State.withNow]
  split
  · exact emitTail (Nat.le_refl 1) asked rfl (.inl lastUse)
  · exact .of_lastUse_eq (Nat.le_refl 1) asked rfl

end State.Timed

/-! #### Every command -/

theorem exec_timed {i : Instr} {s t : State} (run : exec i s = .next t) : s.Timed t := by
  by_cases silent : i ∉ [Instr.create, .createOvr, .emitOtp, .recLoad]
  · obtain ⟨t', run', same⟩ := exec_agents silent s
    obtain ⟨t'', run'', c⟩ := exec_cases i s
    obtain rfl : t' = t := Host.Outcome.next.inj (run'.symm.trans run)
    obtain rfl : t'' = t' := Host.Outcome.next.inj (run''.symm.trans run)
    refine .of_lastUse_eq (Nat.zero_le 1) (same ▸ .refl s.agents) (congrArg Token.lastUse ?_)
    rcases c.token_cases (by simp at silent ⊢; tauto) with kept | ⟨emits, -⟩
    · exact kept
    · exact absurd (by simp [emits]) silent
  · simp only [List.mem_cons, List.not_mem_nil, or_false, not_not] at silent
    rcases silent with rfl | rfl | rfl | rfl
    · exact (exec_create_cases run).timed
    · rcases exec_createOvr_cases run with failed | ⟨-, ending⟩
      · subst failed
        exact .of_lastUse_eq (Nat.zero_le 1) (.refl _) rfl
      · exact ending.timed
    · cases run
      exact .emitRun s
    · exact exec_recLoad_timed run

theorem runsEmit.timed {s t : State} (run : runsEmit s t) : s.Timed t := by
  rcases run with run | ⟨inv, held, run⟩
  · exact exec_timed run
  · obtain ⟨l, flight⟩ := Flight.eq_hold_of_held held
    rw [State.advance_held flight] at run
    cases run
    exact .emitResume inv flight

/-- Settles O40: the first two clauses are of every emission, the next two of `CREATE` and the commands that
keep the token, the last of the readings that a command takes. -/
theorem emitOtpKeepsWellFormed : Obligations.EmitOtpKeepsWellFormed := by
  unfold Obligations.EmitOtpKeepsWellFormed
  intro s t
  refine ⟨fun now ts times notBefore run => ?atOnce, fun inv held run => ?resumed,
    fun i notLoad notOvr notEmit run => exec_wf notLoad notOvr notEmit run, exec_createOvr_wf,
    fun n order run => ?clock⟩
  case atOnce =>
    have e := exec_emitOtp_emission run
    rw [Agents.now_listed times] at e
    refine ⟨?_, e.wf⟩
    rcases e.lastUse_cases with same | new
    · rw [same]
    · rwa [new]
  case resumed =>
    have e := inv.advance_emission held run
    exact ⟨e.lastUse_cases.elim id id, e.wf⟩
  case clock =>
    rcases run with ⟨i, run⟩ | run
    · exact (exec_timed run).clockInOrder order
    · exact run.timed.clockInOrder order

end Sys2Proof.Machine

/-! PROOFS. Decimal text (45_record R232, R233). `Dec` is tied to the library's digits `Nat.toDigits`, and
the number `ParseDec` reads to the library's `Nat.ofDigitChars`, so that the library's inverse law applies. -/

namespace Sys2Proof.Machine

/-! ### `Dec` -/

theorem chars_append (cs ds : List Char) : chars (cs ++ ds) = chars cs ++ chars ds := List.map_append

theorem decDigit_eq_digitChar {d : Nat} (h : d < 10) :
    decDigit d = BitVec.ofNat 8 (Nat.digitChar d).toNat := by
  rw [Nat.toNat_digitChar_of_lt_ten h]
  rfl

theorem decDigits_chars (fuel : Nat) : ∀ (v : Nat) (acc : List Char),
    decDigits fuel v (chars acc) = chars (Nat.toDigitsCore 10 fuel v acc) := by
  induction fuel with
  | zero => exact fun _ _ => rfl
  | succ fuel ih =>
    intro v acc
    have last := decDigit_eq_digitChar (Nat.mod_lt v (by decide : 0 < 10))
    rw [decDigits, Nat.toDigitsCore]
    by_cases small : v < 10
    · rw [Nat.mod_eq_of_lt small] at last ⊢
      rw [if_pos small, if_pos (Nat.div_eq_of_lt small), last]
      rfl
    · rw [if_neg small, if_neg (by omega), last]
      exact ih (v / 10) (Nat.digitChar (v % 10) :: acc)

/-- `Dec` writes the digits in base ten (45_record R232). -/
theorem decText_eq_chars (v : Nat) : decText v = chars (Nat.toDigits 10 v) :=
  decDigits_chars (v + 1) v []

theorem decText_of_lt {v : Nat} (h : v < 10) : decText v = [decDigit v] := by
  rw [decText_eq_chars, Nat.toDigits_of_lt_base h, decDigit_eq_digitChar h]
  rfl

theorem decText_of_le {v : Nat} (h : 10 ≤ v) :
    decText v = decText (v / 10) ++ [decDigit (v % 10)] := by
  rw [decText_eq_chars, Nat.toDigits_of_base_le (by decide) h, chars_append, ← decText_eq_chars,
    decDigit_eq_digitChar (Nat.mod_lt v (by decide))]
  rfl

theorem decText_ne_nil (v : Nat) : decText v ≠ [] := by
  rw [decText_eq_chars, Ne, List.map_eq_nil_iff]
  exact Nat.toDigits_ne_nil

/-- No leading zero but in `Dec(0)` (45_record R232). -/
theorem eq_zero_of_head?_decText {v : Nat} (zero : (decText v).head? = some 0x30) : v = 0 := by
  induction v using Nat.strongRecOn with
  | ind v ih =>
    by_cases small : v < 10
    · rw [decText_of_lt small, List.head?_cons, Option.some.injEq, decDigit] at zero
      bv_omega
    · rw [decText_of_le (by omega), List.head?_append_of_ne_nil _ (decText_ne_nil _)] at zero
      have := ih (v / 10) (by omega) zero
      omega

/-! ### `ParseDec` -/

theorem isDigit_iff {b : Byte} : isDigit b = true ↔ 0x30 ≤ b.toNat ∧ b.toNat ≤ 0x39 := by
  simp [isDigit, BitVec.le_def]

/-- A text of digits is read as its value, if that fits (45_record R233). -/
theorem parseDec_of_digits {t : List Byte} (n : Nat) (nonempty : t ≠ [])
    (digits : ∀ b ∈ t, isDigit b = true) :
    parseDec n t =
      if 2 ^ n ≤ decValue t then .error .badRecord else .ok (BitVec.ofNat n (decValue t)) := by
  rw [parseDec, if_neg nonempty, if_neg (by simpa using digits)]

/-- An empty text and a text with another byte are malformed (45_record R233). -/
theorem parseDec_malformed {t : List Byte} (n : Nat) (h : t = [] ∨ ∃ b ∈ t, isDigit b = false) :
    parseDec n t = .error .badRecord := by
  rcases h with rfl | bad
  · rfl
  · rw [parseDec, if_pos (c := (!t.all isDigit) = true) (by simpa using bad), ite_self]

/-! ### Characters that are digits -/

theorem toNat_ofNat_of_isDigit {c : Char} (h : c.isDigit = true) :
    (BitVec.ofNat 8 c.toNat).toNat = c.toNat ∧ 0x30 ≤ c.toNat ∧ c.toNat ≤ 0x39 := by
  obtain ⟨low, high⟩ : 0x30 ≤ c.toNat ∧ c.toNat ≤ 0x39 := Char.isDigit_iff_toNat.mp h
  exact ⟨Nat.mod_eq_of_lt (by omega), low, high⟩

theorem isDigit_of_mem_chars {cs : List Char} (digits : ∀ c ∈ cs, c.isDigit = true) :
    ∀ b ∈ chars cs, isDigit b = true := by
  intro b mem
  obtain ⟨c, hc, rfl⟩ := List.mem_map.mp mem
  obtain ⟨same, low, high⟩ := toNat_ofNat_of_isDigit (digits c hc)
  rw [isDigit_iff, same]
  exact ⟨low, high⟩

theorem decValue_chars {cs : List Char} (digits : ∀ c ∈ cs, c.isDigit = true) :
    decValue (chars cs) = Nat.ofDigitChars 10 cs 0 := by
  rw [decValue, List.foldl_map, Nat.ofDigitChars_eq_foldl]
  refine List.foldl_ext _ _ _ fun v c hc => ?_
  rw [(toNat_ofNat_of_isDigit (digits c hc)).1]
  rfl

/-! ### `Dec` read back, with zeros in front -/

/-- The characters of `Dec(v)` after `k` zeros. -/
def paddedDigits (k v : Nat) : List Char := List.replicate k '0' ++ Nat.toDigits 10 v

theorem chars_paddedDigits (k v : Nat) :
    chars (paddedDigits k v) = List.replicate k 0x30 ++ decText v := by
  rw [paddedDigits, chars_append, ← decText_eq_chars, chars, List.map_replicate]
  rfl

theorem isDigit_of_mem_paddedDigits {k v : Nat} : ∀ c ∈ paddedDigits k v, c.isDigit = true := by
  intro c mem
  rcases List.mem_append.mp mem with zero | digit
  · rw [List.eq_of_mem_replicate zero]
    rfl
  · exact Nat.isDigit_of_mem_toDigits (by decide) (by decide) digit

/-- Leading zeros do not count (45_record R233). -/
theorem ofDigitChars_paddedDigits (k v : Nat) : Nat.ofDigitChars 10 (paddedDigits k v) 0 = v := by
  rw [paddedDigits, Nat.ofDigitChars_append, Nat.ofDigitChars_replicate_zero, Nat.mul_zero,
    Nat.ofDigitChars_ten_toDigits]

/-- `ParseDec` of `Dec`, zeros in front allowed: the value when it fits (45_record R233). -/
theorem parseDec_padded_decText (n k v : Nat) :
    parseDec n (List.replicate k 0x30 ++ decText v) =
      if 2 ^ n ≤ v then .error .badRecord else .ok (BitVec.ofNat n v) := by
  have digits := isDigit_of_mem_paddedDigits (k := k) (v := v)
  have nonempty : List.replicate k 0x30 ++ decText v ≠ [] :=
    List.append_ne_nil_of_right_ne_nil _ (decText_ne_nil v)
  rw [← chars_paddedDigits] at nonempty ⊢
  rw [parseDec_of_digits n nonempty (isDigit_of_mem_chars digits), decValue_chars digits,
    ofDigitChars_paddedDigits]

/-- Settles O44: `Dec` is the library's digits, and `ParseDec` undoes it. -/
theorem decimalRoundTrip : Obligations.DecimalRoundTrip := by
  unfold Obligations.DecimalRoundTrip
  refine ⟨decText_eq_chars, fun n v k fits => ?readBack, fun n v k large => ?tooLarge,
    fun v => eq_zero_of_head?_decText, fun n t bad => parseDec_malformed n (bad.imp_right ?notDigit)⟩
  case readBack => rw [parseDec_padded_decText, if_neg (Nat.not_le.mpr fits)]
  case tooLarge => rw [parseDec_padded_decText, if_pos large]
  case notDigit =>
    rintro ⟨b, mem, outside⟩
    refine ⟨b, mem, Bool.eq_false_iff.mpr fun digit => ?_⟩
    have := isDigit_iff.mp digit
    omega

end Sys2Proof.Machine

/-! PROOFS. The lines of a record: cut at newlines, split at the first colon, blanks removed, the key looked
up (45_record R235, R236). -/

namespace Sys2Proof.Machine

/-! ### Newlines -/

theorem splitLines_cons_of_ne {b : Byte} {t l : List Byte} {ls : List (List Byte)} (h : b ≠ newline)
    (rest : splitLines t = l :: ls) : splitLines (b :: t) = (b :: l) :: ls := by
  rw [splitLines, if_neg h, rest]

/-- What stands before the first newline is the first line. -/
theorem splitLines_append_newline {line : List Byte} (h : newline ∉ line) (text : List Byte) :
    splitLines (line ++ [newline] ++ text) = line :: splitLines text := by
  induction line with
  | nil => rfl
  | cons b line ih =>
    obtain ⟨hb, hline⟩ := List.ne_and_not_mem_of_not_mem_cons h
    exact splitLines_cons_of_ne hb.symm (ih hline)

/-- A text without a newline is one line. -/
theorem splitLines_of_not_mem {line : List Byte} (h : newline ∉ line) : splitLines line = [line] := by
  induction line with
  | nil => rfl
  | cons b line ih =>
    obtain ⟨hb, hline⟩ := List.ne_and_not_mem_of_not_mem_cons h
    exact splitLines_cons_of_ne hb.symm (ih hline)

/-! ### Blanks -/

theorem isBlank_iff {b : Byte} : isBlank b = true ↔ b = 0x20 ∨ b = 0x09 ∨ b = 0x0D := by
  simp [isBlank, or_assoc]

theorem isBlank_eq_false_iff {b : Byte} :
    isBlank b = false ↔ b ≠ 0x20 ∧ b ≠ 0x09 ∧ b ≠ 0x0D := by
  rw [← Bool.not_eq_true, isBlank_iff, not_or, not_or]

theorem colon_not_mem_blanks {t : List Byte} (blanks : ∀ b ∈ t, isBlank b = true) : colon ∉ t :=
  fun mem => absurd (blanks colon mem) (by decide)

/-- Blanks in front are dropped up to the first byte that is none. -/
theorem dropWhile_blanks_append {blanks t : List Byte} (all : ∀ b ∈ blanks, isBlank b = true)
    (first : ∀ b, t.head? = some b → isBlank b = false) :
    (blanks ++ t).dropWhile isBlank = t := by
  rw [List.dropWhile_append_of_pos all]
  cases t with
  | nil => rfl
  | cons b t => exact List.dropWhile_cons_of_neg (by simp [first b rfl])

/-- Blanks around a text that neither begins nor ends with one are removed (45_record R235 clause 2). -/
theorem trimBlanks_padded {pre t post : List Byte} (hpre : ∀ b ∈ pre, isBlank b = true)
    (hpost : ∀ b ∈ post, isBlank b = true)
    (ends : ∀ b, t.head? = some b ∨ t.getLast? = some b → isBlank b = false) :
    trimBlanks (pre ++ t ++ post) = t := by
  rcases eq_or_ne t [] with rfl | nonempty
  · have all : ∀ b ∈ pre ++ post, isBlank b = true := List.forall_mem_append.mpr ⟨hpre, hpost⟩
    have gone := dropWhile_blanks_append (t := []) all nofun
    rw [List.append_nil] at gone ⊢
    rw [trimBlanks, gone]
    rfl
  · have front : (pre ++ (t ++ post)).dropWhile isBlank = t ++ post :=
      dropWhile_blanks_append hpre fun b hb =>
        ends b (.inl (by rwa [List.head?_append_of_ne_nil _ nonempty] at hb))
    have back : (post.reverse ++ t.reverse).dropWhile isBlank = t.reverse :=
      dropWhile_blanks_append (fun b hb => hpost b (List.mem_reverse.mp hb)) fun b hb =>
        ends b (.inr (by rwa [List.head?_reverse] at hb))
    rw [trimBlanks, List.append_assoc, front, List.reverse_append, back, List.reverse_reverse]

/-! ### The colon -/

theorem splitColon_of_not_mem {line : List Byte} (h : colon ∉ line) : splitColon line = none := by
  rw [splitColon, if_neg (by simpa using h)]

/-- The cut is at the first colon; a later one belongs to the value (45_record R235 clause 2). -/
theorem splitColon_append {key : List Byte} (h : colon ∉ key) (val : List Byte) :
    splitColon (key ++ colon :: val) = some (trimBlanks key, trimBlanks val) := by
  have before : ∀ b ∈ key, (b != colon) = true := fun b hb => bne_iff_ne.mpr (ne_of_mem_of_not_mem hb h)
  have take : (key ++ colon :: val).takeWhile (· != colon) = key := by
    rw [List.takeWhile_append_of_pos before]
    simp
  have drop : (key ++ colon :: val).dropWhile (· != colon) = colon :: val := by
    rw [List.dropWhile_append_of_pos before]
    simp
  rw [splitColon, if_pos (by simp), take, drop]
  rfl

/-! ### The key -/

theorem keyOfName_name (k : RecordKey) : keyOfName k.name = some k := by
  cases k <;> rfl

theorem keyOfName_unknown {name : List Byte} (h : ∀ k : RecordKey, name ≠ k.name) :
    keyOfName name = none :=
  List.find?_eq_none.mpr fun k _ => by simpa using (h k).symm

/-! ### A line -/

theorem loadLine_without_colon {line : List Byte} (h : colon ∉ line) (t : Token) :
    loadLine line t = .ok t := by
  rw [loadLine, splitColon_of_not_mem h]

theorem loadLine_known {line val : List Byte} {k : RecordKey}
    (cut : splitColon line = some (k.name, val)) (t : Token) : loadLine line t = loadValue k val t := by
  rw [loadLine, cut]
  simp only [keyOfName_name]

theorem loadLine_unknown {line name val : List Byte} (cut : splitColon line = some (name, val))
    (h : ∀ k : RecordKey, name ≠ k.name) (t : Token) : loadLine line t = .ok t := by
  rw [loadLine, cut]
  simp only [keyOfName_unknown h]

/-- Key and value with blanks around each (45_record R235 clause 2). -/
theorem splitColon_padded {b1 name b2 b3 val b4 : List Byte}
    (blanks : ∀ b ∈ b1 ++ b2 ++ b3 ++ b4, isBlank b = true) (noColon : colon ∉ name)
    (ends : ∀ x ∈ [name, val], ∀ b, x.head? = some b ∨ x.getLast? = some b → isBlank b = false) :
    splitColon (b1 ++ name ++ b2 ++ [colon] ++ b3 ++ val ++ b4) = some (name, val) := by
  simp only [List.forall_mem_append] at blanks
  obtain ⟨⟨⟨h1, h2⟩, h3⟩, h4⟩ := blanks
  have noColon : colon ∉ b1 ++ name ++ b2 := by
    simp only [List.mem_append, not_or]
    exact ⟨⟨colon_not_mem_blanks h1, noColon⟩, colon_not_mem_blanks h2⟩
  have layout : b1 ++ name ++ b2 ++ [colon] ++ b3 ++ val ++ b4 =
      (b1 ++ name ++ b2) ++ colon :: (b3 ++ val ++ b4) := by
    simp only [List.append_assoc, List.cons_append, List.nil_append]
  rw [layout, splitColon_append noColon, trimBlanks_padded h1 h2 (ends name (by simp)),
    trimBlanks_padded h3 h4 (ends val (by simp))]

/-! ### The lines in order -/

theorem loadLines_cons_ok {l : List Byte} {t u : Token} (h : loadLine l t = .ok u)
    (ls : List (List Byte)) : loadLines (l :: ls) t = loadLines ls u := by
  rw [loadLines, h]

theorem loadLines_cons_error {l : List Byte} {t : Token} {e : CmdError} (h : loadLine l t = .error e)
    (ls : List (List Byte)) : loadLines (l :: ls) t = .error e := by
  rw [loadLines, h]

/-- Settles O47: newlines, then the colon, then the blanks, then the key. -/
theorem recordLinesAreRead : Obligations.RecordLinesAreRead := by
  unfold Obligations.RecordLinesAreRead
  refine ⟨fun line text h => ⟨splitLines_append_newline h text, splitLines_of_not_mem h⟩,
    fun line t h => loadLine_without_colon h t, ?fields,
    fun l ls t u e => ⟨(loadLines_cons_ok · ls), (loadLines_cons_error · ls), rfl⟩, fun _ => rfl⟩
  case fields =>
    intro b1 b2 b3 b4 name val t blanks noColon ends
    have cut := splitColon_padded (fun b hb => isBlank_iff.mpr (blanks b hb)) noColon
      fun x hx b hb => isBlank_eq_false_iff.mpr (ends x hx b hb)
    exact ⟨fun k known => loadLine_known (known ▸ cut) t, fun unknown => loadLine_unknown cut unknown t⟩

end Sys2Proof.Machine

/-! PROOFS. The conversion of a record value (45_record R237): one argument for the three byte values and one
for the five numbers. -/

namespace Sys2Proof.Machine

theorem sizedBytes_toList {n : Nat} (v : Bytes n) : sizedBytes n (.ok v.toList) = .ok v := by
  simp [sizedBytes]

theorem sizedBytes_wrong_size {n : Nat} {b : List Byte} (h : b.length ≠ n) :
    sizedBytes n (.ok b) = .error .invalidLength := by
  simp [sizedBytes, toBytes_of_length_ne h]

/-- A byte value is what its codec decodes, of the register's size (45_record R237). -/
theorem convertsBytes_decoder (n : Nat) (r : Option (List Byte)) (put : Bytes n → Token) :
    convertsBytes n (orInvalidEncoding r) ((sizedBytes n (orInvalidEncoding r)).map put) put := by
  refine ⟨fun v decoded => ?sized, fun b decoded wrong => ?wrongSize, fun e failed => ?malformed⟩
  case sized => rw [decoded, sizedBytes_toList]; rfl
  case wrongSize => rw [decoded, sizedBytes_wrong_size wrong]; rfl
  case malformed => rw [failed, orInvalidEncoding_error failed]; rfl

/-- A number is what `ParseDec` reads, or `BadRecord` (45_record R237). -/
theorem convertsNumber_parseDec (n : Nat) (val : List Byte) (put : BitVec n → Token) :
    convertsNumber (parseDec n val) ((parseDec n val).map put) put := by
  refine ⟨fun v parsed => ?fits, fun e failed => ?malformed⟩
  case fits => rw [parsed]; rfl
  case malformed => rw [failed, parseDec_error failed]; rfl

/-- Settles O48: each key by the conversion of its kind. -/
theorem recordValuesConvert : Obligations.RecordValuesConvert := by
  unfold Obligations.RecordValuesConvert
  exact ⟨fun _ => rfl, fun val _ =>
    ⟨convertsBytes_decoder 6 (decodeText aval val) _, convertsBytes_decoder 6 (decodeText hval val) _,
      convertsBytes_decoder 16 (decodeText hval val) _, convertsNumber_parseDec 16 val _,
      convertsNumber_parseDec 8 val _, convertsNumber_parseDec 64 val _,
      convertsNumber_parseDec 64 val _, convertsNumber_parseDec 32 val _⟩⟩

end Sys2Proof.Machine

/-! PROOFS. `REC_LOAD` and `REC_SAVE` (45_record R238, R242). -/

namespace Sys2Proof.Machine

/-! ### `REC_LOAD` -/

section
variable {s : State} (fits : s.dinLen.toNat ≤ Config.bufCap)
include fits

/-- A text that does not parse ends the command before the time source is asked (45_record R238). -/
theorem exec_recLoad_parse_error {e : CmdError} (parsed : parseRecord s.dinOperand = .error e) :
    exec .recLoad s = .next (s.endedErr e s.agents) := by
  refine congrArg Host.Outcome.next ((State.withDin_fits fits ..).trans ?_)
  rw [parsed]
  rfl

/-- A text that parses is followed by the clock check on one reading (45_record R238, R239). -/
theorem exec_recLoad_parsed {u : Token} {now : Time} {ts : List Time}
    (parsed : parseRecord s.dinOperand = .ok u) (times : s.agents.times = now :: ts) :
    exec .recLoad s = .next
      (if now < u.lastUse then s.endedErr .clockRollback { s.agents with times := ts }
       else ({ s with token := u, agents := { s.agents with times := ts } } : State).endedOk
        Status.tokenLoaded) := by
  refine congrArg Host.Outcome.next ((State.withDin_fits fits ..).trans ?_)
  rw [parsed]
  exact State.withNow_listed (s := s.begin 0x10) times

end

/-- Settles O49: the length check, then the parse, then the clock check. -/
theorem recLoadResult : Obligations.RecLoadResult := by
  unfold Obligations.RecLoadResult
  refine ⟨decode_of_eq_code (by rfl) [], fun s => ⟨fun fits => ⟨fun u now ts parsed times => ?parsed,
    fun e => exec_recLoad_parse_error fits⟩, fun long => ?tooLong⟩⟩
  case parsed =>
    have run := exec_recLoad_parsed fits parsed times
    constructor
    · intro notLater
      rwa [if_neg (BitVec.not_lt.mpr notLater)] at run
    · intro later
      rwa [if_pos (BitVec.lt_def.mpr later)] at run
  case tooLong => exact congrArg Host.Outcome.next (State.withDin_tooLong long ..)

/-! ### `REC_SAVE` -/

/-- The eight lines one after the other (45_record R234). -/
theorem render_eq_recordText (t : Token) : t.render = recordText t := rfl

theorem exec_recSave (s : State) :
    exec .recSave s = .next ((s.begin 0x10).withToken fun s =>
      ({ s with status := s.status.saved }.putResult s.token.render).complete) := rfl

/-- Settles O45: the text rendered is the record text of the statements. -/
theorem recSaveResult : Obligations.RecSaveResult := by
  unfold Obligations.RecSaveResult
  refine ⟨decode_of_eq_code (by rfl) [], fun s wf => ⟨fun present => ?saves, fun absent => ?fails⟩⟩
  case saves =>
    refine ⟨_, by rw [exec_recSave, State.withToken_present present], answers_of_eq wf ?_⟩
    rw [State.begin_token, render_eq_recordText]
    rfl
  case fails => rw [exec_recSave, State.withToken_absent absent]

end Sys2Proof.Machine

/-! PROOFS. How a command ends with an error, and that nothing but the control registers tells it
(60_exceptions R270, R272). -/

namespace Sys2Proof.Machine

/-! ### A command run at once -/

/-- No success touches an indication (10_state R30). -/
theorem TokenEffect.indications {i : Instr} {s : State} {tok : Token} {f : Status → Status}
    (h : TokenEffect i s tok f) (x : Status) :
    (f x).busy = x.busy ∧ (f x).done = x.done ∧ (f x).errf = x.errf := by
  cases h with
  | none _ _ hf => subst hf; exact ⟨rfl, rfl, rfl⟩
  | loaded _ hf => subst hf; exact ⟨rfl, rfl, rfl⟩
  | emitted _ _ _ _ _ hf => subst hf; exact ⟨rfl, rfl, rfl⟩
  | saved _ _ hf => subst hf; exact ⟨rfl, rfl, rfl⟩

/-- A command ends by the error entry with an error of its row, or indicates no error (10_state R30,
R32). -/
theorem CmdEnd.failed_or_noErr {i : Instr} {s t : State} (c : CmdEnd i s t) :
    (∃ e ∈ errorsOf i, ∃ a, t = s.endedErr e a) ∨ t.err = 0 ∧ t.status.errf = false := by
  cases c with
  | failed e a he run => exact .inl ⟨e, he, a, run⟩
  | held _ _ _ _ _ run => subst run; exact .inr ⟨rfl, rfl⟩
  | done _ _ _ _ _ _ _ _ token _ _ _ run =>
    subst run
    obtain ⟨-, -, errf⟩ := token.indications
      { s.status with busy := false, done := true, errf := false }
    exact .inr ⟨rfl, errf⟩

/-- Settles O51, from the three ways a command ends (`exec_cases`). -/
theorem commandsEndByTheTable : Obligations.CommandsEndByTheTable := by
  unfold Obligations.CommandsEndByTheTable
  intro i s
  obtain ⟨t, run, c⟩ := exec_cases i s
  refine ⟨t, run, ?_⟩
  cases c with
  | failed e a he h => exact .inr (.inl ⟨e, he, a, h⟩)
  | held hi _ _ _ _ h => subst h; exact .inr (.inr ⟨hi, rfl, rfl, rfl, rfl, rfl⟩)
  | done _ _ _ _ _ _ _ _ token _ _ _ h =>
    subst h
    obtain ⟨busy, done, errf⟩ := token.indications
      { s.status with busy := false, done := true, errf := false }
    exact .inl ⟨⟨rfl, busy, done, rfl⟩, rfl, errf⟩

/-! ### An `EMIT_OTP` after its wait -/

/-- Steps 4 to 7 end the command, by the error entry or without touching `ERRF` (44_state_machine R210 to
R212). -/
theorem State.emitTail_failed_or_errf (l : EmitLocals) (s : State) :
    (∃ e ∈ errorsOf .emitOtp, ∃ a, s.emitTail l = s.endedErr e a) ∨
      (s.emitTail l).status.errf = s.status.errf := by
  rcases s.emitTail_cases l with ⟨-, run⟩ | ⟨-, run⟩ | ⟨-, r, run⟩ <;> rw [run]
  · exact .inl ⟨.clockRollback, by decide, s.agents, rfl⟩
  · exact .inl ⟨.randomSourceFailure, by decide, s.agents.answer.2, rfl⟩
  · exact .inr rfl

/-- A held command asked once ends by the error entry, or leaves `ERRF` as it is. -/
theorem State.emitResume_failed_or_errf {s : State} {l : EmitLocals}
    (held : s.flight = .emit .hold l) :
    (∃ e ∈ errorsOf .emitOtp, ∃ a, s.emitResume l = s.endedErr e a) ∨
      (s.emitResume l).status.errf = s.status.errf := by
  rw [emitResume_cases l s held, withNow]
  split
  · exact emitTail_failed_or_errf { l with now := s.agents.now.1, ponRand := clearNibble l.ponRand }
      { s with agents := s.agents.now.2, status := s.status.waitOver }
  · exact .inr rfl

/-- Settles O52: where `ERRF` stands at the end, the command ended by the error entry. -/
theorem errorEntryKeepsState : Obligations.ErrorEntryKeepsState := by
  unfold Obligations.ErrorEntryKeepsState
  intro i s t run errf
  obtain ⟨e, he, a, rfl⟩ : ∃ e ∈ errorsOf i, ∃ a, t = s.endedErr e a := by
    rcases run with run | ⟨rfl, held, noErrf, run⟩
    · obtain ⟨t', run', c⟩ := exec_cases i s
      obtain rfl : t' = t := Host.Outcome.next.inj (run'.symm.trans run)
      exact c.failed_or_noErr.resolve_right fun ⟨_, noErrf⟩ => absurd errf (by rw [noErrf]; decide)
    · obtain ⟨l, flight⟩ := Flight.eq_hold_of_held held
      rw [State.advance_held flight] at run
      cases run
      exact (State.emitResume_failed_or_errf flight).resolve_right fun same =>
        absurd errf (by rw [same, noErrf]; decide)
  exact ⟨⟨e, he, rfl⟩, rfl⟩

end Sys2Proof.Machine

/-! PROOFS. The errors of single commands: `NoToken`, `CounterExhausted`, and the later errors of `EMIT_OTP`
(60_exceptions R263 to R265, R269). -/

namespace Sys2Proof.Machine

/-! ### `NoToken` -/

/-- Settles O35: the token check comes first. -/
theorem commandsNeedAToken : Obligations.CommandsNeedAToken := by
  unfold Obligations.CommandsNeedAToken
  intro s absent
  refine ⟨?emitOtp, ?regExport, ?recSave⟩
  case emitOtp => rw [exec_emitOtp, State.emitRun_start, State.withToken_absent absent]
  case regExport => rw [exec_regExport, State.withToken_absent absent]
  case recSave => rw [exec_recSave, State.withToken_absent absent]

/-! ### `CounterExhausted` -/

theorem CmdError.eq_counterExhausted_of_code {e : CmdError} (h : e.code = 0x04) :
    e = .counterExhausted := by
  cases e
  case counterExhausted => rfl
  all_goals exact absurd h (by decide)

/-- Of the commands `EMIT_OTP` alone has the error in its row (60_exceptions R264, R272). -/
theorem eq_emitOtp_of_counterExhausted_mem {i : Instr} (h : .counterExhausted ∈ errorsOf i) :
    i = .emitOtp := by
  cases i
  case emitOtp => rfl
  all_goals exact absurd h (by decide)

/-- At a due session wrap with Counter at the ceiling step 1 refuses, whatever the agents would answer
(44_state_machine R201, R204). -/
theorem exec_emitOtp_exhausted {s : State} (present : s.status.token = true)
    (wraps : s.token.session = 0xFF) (full : 0x7FFF ≤ s.token.counter.toNat) :
    exec .emitOtp s = .next (s.endedErr .counterExhausted s.agents) := by
  rw [exec_emitOtp]
  rcases s.emitRun_cases with ⟨absent, -⟩ | ⟨-, -, -, run⟩ | ⟨-, room, -⟩
  · exact nomatch absent.symm.trans present
  · rw [run]
  · exact absurd ⟨wraps, BitVec.le_def.mpr full⟩ room

/-- Past the check of step 1 an emission does not end with the error. -/
theorem EmitEnd.err_ne {s t : State} (h : EmitEnd s t) : t.err ≠ CmdError.counterExhausted.code := by
  cases h with
  | failed _ _ he run =>
    subst run
    rw [State.endedErr_err]
    rcases he with rfl | rfl <;> decide
  | held _ _ _ run => subst run; exact CmdError.counterExhausted.code_ne_zero.symm
  | done _ _ _ _ _ _ _ _ run => subst run; exact CmdError.counterExhausted.code_ne_zero.symm

theorem exhausted_of_exec_emitOtp {s t : State} (run : exec .emitOtp s = .next t)
    (err : t.err = CmdError.counterExhausted.code) :
    s.status.token = true ∧ s.token.session = 0xFF ∧ 0x7FFF ≤ s.token.counter.toNat := by
  cases run
  rcases s.emitRun_cases with ⟨-, run⟩ | ⟨present, wraps, full, -⟩ | ⟨-, -, ending⟩
  · rw [run] at err
    exact absurd err (show CmdError.noToken.code ≠ _ by decide)
  · exact ⟨present, wraps, BitVec.le_def.mp full⟩
  · exact absurd err ending.err_ne

/-- Settles O34: only the row of `EMIT_OTP` has the error, and only its step 1 raises it. -/
theorem counterExhaustedIsFinal : Obligations.CounterExhaustedIsFinal := by
  unfold Obligations.CounterExhaustedIsFinal
  refine ⟨fun i s t run => ⟨fun err => ?only, ?raised⟩, fun s present wraps full =>
    ⟨exec_emitOtp_exhausted present wraps full, fun s' same present' => ?again⟩⟩
  case only =>
    obtain ⟨t', run', c⟩ := exec_cases i s
    obtain rfl : t' = t := Host.Outcome.next.inj (run'.symm.trans run)
    rcases c.failed_or_noErr with ⟨e, he, a, failed⟩ | ⟨noErr, -⟩
    · have code : e.code = 0x04 := by rw [← err, failed, State.endedErr_err]
      rw [CmdError.eq_counterExhausted_of_code code] at he
      obtain rfl := eq_emitOtp_of_counterExhausted_mem he
      exact ⟨rfl, exhausted_of_exec_emitOtp run err⟩
    · exact absurd (noErr.symm.trans err) (by decide)
  case raised =>
    rintro ⟨rfl, present, wraps, full⟩
    rw [exec_emitOtp_exhausted present wraps full] at run
    cases run
    rfl
  case again => exact exec_emitOtp_exhausted present' (same ▸ wraps) (same ▸ full)

/-! ### The later errors of `EMIT_OTP` -/

/-- Step 4 on a reading before `CREATED` (44_state_machine R210). -/
theorem State.emitTail_rollback {s : State} {l : EmitLocals}
    (early : l.now.toNat < s.token.created.toNat) :
    s.emitTail l = s.endedErr .clockRollback s.agents := by
  rw [emitTail, if_pos (BitVec.lt_def.mpr early)]
  rfl

/-- Step 5 on a draw that fails (44_state_machine R219). -/
theorem State.emitTail_draw_fails {s : State} {l : EmitLocals} {ds : List (Option (BitVec 128))}
    (created : s.token.created.toNat ≤ l.now.toNat) (draws : s.agents.draws = none :: ds) :
    s.emitTail l = s.endedErr .randomSourceFailure { s.agents with draws := ds } := by
  rw [emitTail, if_neg (BitVec.not_lt.mpr created), withDraw_fails draws]
  rfl

/-- Step 1 on a draw that fails, at a session wrap below the ceiling (44_state_machine R201, R219). -/
theorem exec_emitOtp_wrap_draw_fails {s : State} {ds : List (Option (BitVec 128))}
    (present : s.status.token = true) (wraps : s.token.session = 0xFF)
    (room : s.token.counter.toNat < 0x7FFF) (draws : s.agents.draws = none :: ds) :
    exec .emitOtp s = .next (s.endedErr .randomSourceFailure { s.agents with draws := ds }) := by
  have wraps : (s.begin 0x01).token.locals.sess = 0xFF := wraps
  have below : ¬ 0x7FFF ≤ (s.begin 0x01).token.locals.ctr := BitVec.not_le.mpr room
  rw [exec_emitOtp, State.emitRun_start, State.withToken_present present,
    State.emitMoves_advance (n := 0), if_pos wraps, if_neg below,
    State.withDraw_fails (s := s.begin 0x01) draws]
  rfl

/-- Settles O36: step 1 with the wrap, then steps 4 and 5 at once and after the wait. -/
theorem emitOtpLaterErrors : Obligations.EmitOtpLaterErrors := by
  unfold Obligations.EmitOtpLaterErrors
  intro s present
  refine ⟨fun ds => exec_emitOtp_wrap_draw_fails present,
    fun now ts ds rest c ses pr lu' pr' times one three => ?atOnce,
    fun l r ts ds noInput held times later => ?resumed⟩
  case atOnce =>
    have run := (State.emitRun_of_stepOne present times one).trans
      (State.emitMoves_of_stepThree three _)
    rw [exec_emitOtp, run]
    exact ⟨fun early => congrArg _ (State.emitTail_rollback early),
      fun created draws => congrArg _ (State.emitTail_draw_fails created draws)⟩
  case resumed =>
    rw [step_of_inputs_nil noInput, State.advance_held held, State.emitResume_ends held times later]
    exact ⟨fun early => congrArg _ (State.emitTail_rollback early),
      fun created draws => congrArg _ (State.emitTail_draw_fails created draws)⟩

end Sys2Proof.Machine

/-! PROOFS. `CREATE` and `CREATE_OVR` when a draw fails (60_exceptions R263, 44_state_machine R191, R195). -/

namespace Sys2Proof.Machine

/-- One of the next `n` draws fails, and `ds` is what is listed after it. -/
def Agents.FailsAmong (a : Agents) (n : Nat) (ds : List (Option (BitVec 128))) : Prop :=
  ∃ ok : List (BitVec 128), ok.length < n ∧ a.draws = ok.map some ++ none :: ds

/-- `t` is the error entry from `s` on a failed draw, with `ds` left of the listed draws. -/
def State.DrawFailed (s : State) (ds : List (Option (BitVec 128))) (t : State) : Prop :=
  ∃ a, t = s.endedErr .randomSourceFailure a ∧ a.draws = ds

/-- A reading leaves the draws to come as they are. -/
theorem Agents.now_draws (a : Agents) : a.now.2.draws = a.draws := by
  unfold now
  split <;> rfl

theorem Agents.FailsAmong.now {a : Agents} {n : Nat} {ds : List (Option (BitVec 128))}
    (h : a.FailsAmong n ds) : a.now.2.FailsAmong n ds := by
  unfold FailsAmong
  rwa [a.now_draws]

/-- No draw fails among none. -/
theorem Agents.not_failsAmong_zero {a : Agents} {ds : List (Option (BitVec 128))} :
    ¬ a.FailsAmong 0 ds :=
  fun ⟨_, short, _⟩ => Nat.not_lt_zero _ short

namespace State.DrawFailed

variable {s : State} {a : Agents} {ds : List (Option (BitVec 128))} {m n : Nat}

/-- The draw fails, or it delivers and the failing one is among the draws after it. -/
theorem withDraw {k : BitVec n → State → State} (h : a.FailsAmong (m + 1) ds)
    (rest : ∀ v a', a'.FailsAmong m ds → s.DrawFailed ds (k v { s.begin 0x10 with agents := a' })) :
    s.DrawFailed ds (({ s.begin 0x10 with agents := a } : State).withDraw n k) := by
  obtain ⟨ok, short, draws⟩ := h
  cases ok with
  | nil => exact ⟨_, withDraw_fails (s := { s.begin 0x10 with agents := a }) draws, rfl⟩
  | cons v ok =>
    rw [withDraw_listed (s := { s.begin 0x10 with agents := a }) draws]
    exact rest _ _ ⟨ok, Nat.lt_of_succ_lt_succ short, rfl⟩

/-- A field takes a draw unless it is supplied (44_state_machine R195, D25). -/
theorem withBytes {supplied : Option (Bytes n)} {k : Bytes n → State → State}
    (h : a.FailsAmong (m + supplied.isNone.toNat) ds)
    (rest : ∀ v a', a'.FailsAmong m ds → s.DrawFailed ds (k v { s.begin 0x10 with agents := a' })) :
    s.DrawFailed ds (({ s.begin 0x10 with agents := a } : State).withBytes n supplied k) := by
  cases supplied with
  | none => exact withDraw h fun _ => rest _
  | some b => exact rest b a h

theorem withPubId {supplied : Option (Bytes 6)} {k : Bytes 6 → State → State}
    (h : a.FailsAmong (m + supplied.isNone.toNat) ds)
    (rest : ∀ v a', a'.FailsAmong m ds → s.DrawFailed ds (k v { s.begin 0x10 with agents := a' })) :
    s.DrawFailed ds (({ s.begin 0x10 with agents := a } : State).withPubId supplied k) := by
  cases supplied with
  | none => exact withBytes (supplied := none) (k := fun r s => k (prefixed r) s) h fun _ => rest _
  | some b => exact rest b a h

end State.DrawFailed

/-- The body of Create makes one draw for each field not supplied and one for PonRand; if any of them fails,
nothing is committed (44_state_machine R191, R195). -/
theorem State.createToken_draw_fails {s : State} {pub priv : Option (Bytes 6)}
    {key : Option (Bytes 16)} {ds : List (Option (BitVec 128))} (c : BitVec 16)
    (h : s.agents.FailsAmong
      (1 + key.isNone.toNat + priv.isNone.toNat + pub.isNone.toNat) ds) :
    s.DrawFailed ds ((s.begin 0x10).createToken pub priv key c) := by
  refine DrawFailed.withPubId (a := s.agents) h fun pubId a₁ h₁ =>
    .withBytes h₁ fun privId a₂ h₂ => .withBytes h₂ fun key a₃ h₃ => ?_
  rw [withNow]
  exact DrawFailed.withDraw (a := a₃.now.2) (m := 0) h₃.now fun _ _ none =>
    absurd none Agents.not_failsAmong_zero

/-- A field is drawn exactly when its mask bit is 0 (10_state R26). -/
theorem toNat_isNone_supplied {α : Type} (bit : Bool) (reg : α) :
    (if bit then some reg else none).isNone.toNat + bit.toNat = 1 := by
  cases bit <;> rfl

/-- Settles O29: four draws, less one for each supplied field. -/
theorem failedDrawCommitsNothing : Obligations.FailedDrawCommitsNothing := by
  unfold Obligations.FailedDrawCommitsNothing
  refine ⟨fun s ok ds short draws => ?create, fun s ok ds successor short draws => ?createOvr⟩
  case create =>
    obtain ⟨a, run, left⟩ := State.createToken_draw_fails (pub := none) (priv := none) (key := none)
      1 ⟨ok, Nat.lt_succ_of_le short, draws⟩
    exact ⟨a, (exec_create s).trans (congrArg _ run), left⟩
  case createOvr =>
    have pub := toNat_isNone_supplied (s.ovr.mask.getLsbD 0) s.ovr.pubId
    have priv := toNat_isNone_supplied (s.ovr.mask.getLsbD 1) s.ovr.privId
    have key := toNat_isNone_supplied (s.ovr.mask.getLsbD 2) s.ovr.key
    obtain ⟨a, run, left⟩ := State.createToken_draw_fails (pub := s.ovr.suppliedPubId)
      (priv := s.ovr.suppliedPrivId) (key := s.ovr.suppliedKey) (s.ovr.initCtr + 1)
      ⟨ok, by unfold Overrides.suppliedPubId Overrides.suppliedPrivId Overrides.suppliedKey; omega,
        draws⟩
    exact ⟨a, (exec_createOvr successor).trans (congrArg _ run), left⟩

end Sys2Proof.Machine

/-! PROOFS. The wait over any number of steps: one reading a step, until one is later (44_state_machine R208,
60_exceptions R286). -/

namespace Sys2Proof.Machine

theorem State.steps_succ {s t : State} (h : step s = .next t) (n : Nat) :
    s.steps (n + 1) = t.steps n := by
  rw [steps, h]

section
variable {s : State} {l : EmitLocals} (noInput : s.inputs = []) (held : s.flight = .emit .hold l)
include noInput held

/-- Left alone, a held command takes one reading; one not above `now` leaves it held (44_state_machine
R208). -/
theorem step_held_stays (notLater : s.agents.reading 0 ≤ l.now) :
    step s = .next { s with agents := s.agents.now.2 } := by
  rw [s.agents.reading_zero] at notLater
  rw [step_of_inputs_nil noInput, State.advance_held held, State.emitResume_cases l s held,
    State.withNow, if_neg (BitVec.not_lt.mpr notLater)]

/-- A reading above `now` ends the command, by an error or with success (44_state_machine R208 to R212). -/
theorem step_held_ends (later : l.now < s.agents.reading 0) :
    ∃ t, step s = .next t ∧ t.completed ∧ t.status.wait = false := by
  rw [s.agents.reading_zero] at later
  rw [step_of_inputs_nil noInput, State.advance_held held, State.emitResume_cases l s held,
    State.withNow, if_pos later]
  refine ⟨_, rfl, ?_⟩
  rcases State.emitTail_cases { l with now := s.agents.now.1, ponRand := clearNibble l.ponRand }
    { s with agents := s.agents.now.2, status := s.status.waitOver } with
    ⟨-, run⟩ | ⟨-, run⟩ | ⟨-, r, run⟩ <;> rw [run] <;> exact ⟨⟨rfl, rfl, rfl, rfl⟩, rfl⟩

/-- Nothing but the agents changes over readings none of which is above `now`. -/
theorem steps_held_stays {n : Nat} (notLater : ∀ k < n, s.agents.reading k ≤ l.now) :
    ∃ a, s.steps n = .next { s with agents := a } := by
  induction n generalizing s with
  | zero => exact ⟨s.agents, rfl⟩
  | succ n ih =>
    rw [State.steps_succ (step_held_stays noInput held (notLater 0 (Nat.zero_lt_succ n)))]
    refine ih (s := { s with agents := s.agents.now.2 }) noInput held fun k hk => ?_
    rw [s.agents.now_reading]
    exact notLater (k + 1) (Nat.succ_lt_succ hk)

/-- The first reading above `now` ends the command. -/
theorem steps_held_ends {n : Nat} (notLater : ∀ k < n, s.agents.reading k ≤ l.now)
    (later : l.now < s.agents.reading n) :
    ∃ t, s.steps (n + 1) = .next t ∧ t.completed ∧ t.status.wait = false := by
  induction n generalizing s with
  | zero =>
    obtain ⟨t, run, ended⟩ := step_held_ends noInput held later
    exact ⟨t, State.steps_succ run 0, ended⟩
  | succ n ih =>
    rw [State.steps_succ (step_held_stays noInput held (notLater 0 (Nat.zero_lt_succ n)))]
    refine ih (s := { s with agents := s.agents.now.2 }) noInput held (fun k hk => ?_) ?_
    · rw [s.agents.now_reading]
      exact notLater (k + 1) (Nat.succ_lt_succ hk)
    · rw [s.agents.now_reading]
      exact later

end

/-- Settles O33: an advancing time source gives a reading above `now`, hence a first one. -/
theorem fairClockEndsTheWait : Obligations.FairClockEndsTheWait := by
  unfold Obligations.FairClockEndsTheWait
  intro s l _ noInput held
  refine ⟨fun n => steps_held_stays noInput held, fun n => steps_held_ends noInput held,
    fun advancing notLast => ?_⟩
  have comes := advancing l.now notLast
  exact ⟨Nat.find comes + 1, steps_held_ends noInput held
    (fun k early => BitVec.not_lt.mp (Nat.find_min comes early)) (Nat.find_spec comes)⟩

end Sys2Proof.Machine

/-! PROOFS. What outlasts every step but the reset event: `TOKEN`, and the Secret Material unless a command
replaces the token (60_exceptions R278, 10_state R21, R30). -/

namespace Sys2Proof.Machine

/-- `t` has the Secret Material and the flag `TOKEN` of `s`. -/
structure State.KeepsSecrets (s t : State) : Prop where
  pubId : t.token.pubId = s.token.pubId
  privId : t.token.privId = s.token.privId
  key : t.token.key = s.token.key
  present : t.status.token = s.status.token

namespace State.KeepsSecrets

theorem refl (s : State) : s.KeepsSecrets s := ⟨rfl, rfl, rfl, rfl⟩

theorem trans {s t u : State} (h : s.KeepsSecrets t) (h' : t.KeepsSecrets u) : s.KeepsSecrets u :=
  ⟨h'.pubId.trans h.pubId, h'.privId.trans h.privId, h'.key.trans h.key, h'.present.trans h.present⟩

end State.KeepsSecrets

/-! ### Commands -/

/-- A command that does not replace the token (10_state R23). -/
theorem CmdEnd.keepsSecrets {i : Instr} {s t : State} (c : CmdEnd i s t)
    (keeps : i ∉ [Instr.create, .createOvr, .recLoad]) : s.KeepsSecrets t := by
  have present := c.present_kept keeps
  rcases c.token_cases keeps with same | ⟨-, l, same⟩
  · exact ⟨by rw [same], by rw [same], by rw [same], present⟩
  · exact ⟨by rw [same], by rw [same], by rw [same], present⟩

/-- No command clears `TOKEN` (10_state R30). -/
theorem CmdEnd.present_of_present {i : Instr} {s t : State} (c : CmdEnd i s t)
    (present : s.status.token = true) : t.status.token = true := by
  by_cases keeps : i ∉ [Instr.create, .createOvr, .recLoad]
  · exact (c.present_kept keeps).trans present
  · cases c with
    | failed _ _ _ run => subst run; exact present
    | held _ _ _ _ _ run => subst run; exact present
    | done _ _ _ _ _ _ _ _ token _ _ _ run =>
      subst run
      cases token with
      | none _ _ hf => subst hf; exact present
      | loaded _ hf => subst hf; rfl
      | emitted _ _ _ _ _ hf => subst hf; exact present
      | saved _ _ hf => subst hf; exact present

/-! ### The moves of the block -/

theorem EmitTick.keepsSecrets {s t : State} {st : EmitStage} {l : EmitLocals}
    (c : EmitTick s st l t) : s.KeepsSecrets t := by
  cases c with
  | moved _ _ _ _ _ _ run => subst run; exact ⟨rfl, rfl, rfl, rfl⟩
  | failed _ _ _ run => subst run; exact ⟨rfl, rfl, rfl, rfl⟩
  | done _ run => subst run; exact ⟨rfl, rfl, rfl, rfl⟩

namespace State.KeepsSecrets

variable {s t : State}

theorem emitMove (s : State) : s.KeepsSecrets s.emitMove := by
  unfold State.emitMove
  split
  case h_1 l _ => exact (EmitTick.advance s l).keepsSecrets
  case h_2 l _ => exact (EmitTick.clock s l).keepsSecrets
  case h_3 l _ => exact (EmitTick.collide s l).keepsSecrets
  case h_4 => exact .refl s
  case h_5 l _ => exact (EmitTick.collideEnd s l).keepsSecrets
  case h_6 l _ => exact (EmitTick.stamp s l).keepsSecrets
  case h_7 l _ => exact (EmitTick.random s l).keepsSecrets
  case h_8 l _ => exact (EmitTick.build s l).keepsSecrets
  case h_9 => exact ⟨rfl, rfl, rfl, rfl⟩
  case h_10 => exact .refl s
  case h_11 => exact .refl s

theorem emitMoves (s : State) (n : Nat) : s.KeepsSecrets (s.emitMoves n) := by
  induction n generalizing s with
  | zero => exact .refl s
  | succ n ih => exact .trans (.emitMove s) (ih s.emitMove)

theorem emitHold (s : State) (l : EmitLocals) : s.KeepsSecrets (s.emitHold l) := by
  unfold State.emitHold withNow
  simp only
  split <;> exact ⟨rfl, rfl, rfl, rfl⟩

theorem emitStart (s : State) : s.KeepsSecrets s.emitStart := by
  unfold State.emitStart
  rcases withToken_cases (s.begin 0x01) fun s => s.toStage .advance s.token.locals with
    ⟨-, run⟩ | ⟨-, run⟩ <;> rw [run] <;> exact ⟨rfl, rfl, rfl, rfl⟩

end State.KeepsSecrets

/-- The flights whose command replaces the token: `CREATE`, `CREATE_OVR` and `REC_LOAD` taken. -/
def Flight.replacing : List Flight := [.latched 0x50, .latched 0x51, .latched 0x60]

/-- What a step that is not the reset event does: it keeps the Secret Material and `TOKEN`, or it runs a
command that replaces the token, which does not clear `TOKEN`. -/
def State.Persists (s t : State) : Prop :=
  s.KeepsSecrets t ∨
    s.flight ∈ Flight.replacing ∧ (s.status.token = true → t.status.token = true)

namespace State.Persists

variable {s t : State}

theorem runLatched {v : Byte} (flight : s.flight = .latched v) (run : s.runLatched v = .next t) :
    s.Persists t := by
  unfold State.runLatched at run
  split at run
  · rename_i i _ decoded
    obtain ⟨code, -⟩ := decode_cons_eq_ok_iff.mp decoded
    obtain ⟨t', run', c⟩ := exec_cases i s
    obtain rfl : t' = t := Host.Outcome.next.inj (run'.symm.trans run)
    by_cases keeps : i ∉ [Instr.create, .createOvr, .recLoad]
    · exact .inl (c.keepsSecrets keeps)
    · refine .inr ⟨?_, c.present_of_present⟩
      simp only [List.mem_cons, List.not_mem_nil, or_false, not_not] at keeps
      rw [flight, code]
      rcases keeps with rfl | rfl | rfl <;> decide
  · cases run
    exact .inl ⟨rfl, rfl, rfl, rfl⟩

theorem advance (run : s.advance = .next t) : s.Persists t := by
  unfold State.advance at run
  split at run
  case h_1 => cases run; exact .inl (.refl s)
  case h_2 v flight => exact runLatched flight run
  case h_3 l _ => cases run; exact .inl (.trans (.emitHold s l) (.emitMoves _ 7))
  case h_4 => cases run; exact .inl (.emitMoves s 7)

theorem tick (run : s.tick = .next t) : s.Persists t := by
  unfold State.tick at run
  split at run
  case h_1 => cases run; exact .inl (.refl s)
  case h_2 v flight =>
    split at run
    · cases run; exact .inl (.emitStart s)
    · exact runLatched flight run
  case h_3 l _ => cases run; exact .inl (.emitHold s l)
  case h_4 => cases run; exact .inl (.emitMove s)

end State.Persists

/-! ### The host -/

namespace State.KeepsSecrets

variable {s t : State}

/-- No row of the map that a write stores to holds Secret Material (10_state R21, 20_memory R73). -/
theorem writePlace (s : State) (p : Place) (v : BitVec 64) : s.KeepsSecrets (s.writePlace p v) := by
  cases p with
  | scalar r => cases r <;> exact ⟨rfl, rfl, rfl, rfl⟩
  | byte a i => cases a <;> exact ⟨rfl, rfl, rfl, rfl⟩
  | unlisted => exact .refl s

theorem accept (s : State) (v : Byte) : s.KeepsSecrets (s.accept v) := by
  rcases s.accept_cases v with ⟨i, -, run⟩ | ⟨_, -, run⟩ <;> rw [run] <;> exact ⟨rfl, rfl, rfl, rfl⟩

theorem hostWrite {addr n : Nat} {v : BitVec 64} (run : s.hostWrite addr n v = .next t) :
    s.KeepsSecrets t := by
  unfold State.hostWrite at run
  split at run
  · split at run
    · cases run; exact .refl s
    · split at run <;> cases run
      · exact .accept s _
      · exact .writePlace s _ v
  · cases run
  · cases run

theorem hostRead {addr n : Nat} (run : s.hostRead addr n = .next t) : s.KeepsSecrets t := by
  unfold State.hostRead at run
  split at run <;> cases run
  exact ⟨rfl, rfl, rfl, rfl⟩

end State.KeepsSecrets

theorem State.Persists.act {s t : State} {a : HostAct} (noReset : a ≠ .reset)
    (run : s.act a = .next t) : s.Persists t := by
  cases a with
  | write addr n v => exact .inl (.hostWrite run)
  | read addr n => exact .inl (.hostRead run)
  | reset => exact absurd rfl noReset
  | run => exact .advance run
  | tick => exact .tick run

/-- Settles O54: of all that a step can be, only the run of a command that replaces the token does not keep
the Secret Material, and it does not clear `TOKEN`. -/
theorem secretsAndTokenFlagPersist : Obligations.SecretsAndTokenFlagPersist := by
  unfold Obligations.SecretsAndTokenFlagPersist
  intro s t run noReset
  have persists : s.Persists t := by
    cases next : s.inputs with
    | nil => exact .advance (step_of_inputs_nil next ▸ run)
    | cons a rest =>
      rw [step_of_inputs_cons next] at run
      rw [next, List.head?_cons] at noReset
      have taken : s.KeepsSecrets { s with inputs := rest } := ⟨rfl, rfl, rfl, rfl⟩
      exact (State.Persists.act (mt (congrArg some) noReset) run).imp taken.trans id
  rcases persists with kept | ⟨replaces, present⟩
  · exact ⟨kept.present.trans, fun _ _ _ => ⟨kept.pubId, kept.privId, kept.key⟩⟩
  · refine ⟨present, fun notCreate notOvr notLoad => absurd replaces ?_⟩
    simp only [Flight.replacing, List.mem_cons, List.not_mem_nil, or_false, not_or]
    exact ⟨notCreate, notOvr, notLoad⟩

end Sys2Proof.Machine

/-! PROOFS. The reset event as a step (70_reset_and_hazards R300, 10_state R36). -/

namespace Sys2Proof.Machine

/-- The reset event looks at no part of the state before it ends whatever is in flight, so it has neither
a refusal nor a fault (70_reset_and_hazards R300). -/
theorem State.act_reset (s : State) : s.act .reset = .next s.resetEvent := rfl

/-- Settles O6: the step takes the reset event off the host's list, and the event keeps the list that is
left, with the agents and the data of the last read. -/
theorem resetEventIsTotal : Obligations.ResetEventIsTotal := by
  unfold Obligations.ResetEventIsTotal
  intro s rest next
  calc step s
      = { s with inputs := rest }.act .reset := step_of_inputs_cons next
    _ = .next { s with inputs := rest }.resetEvent := State.act_reset _
    _ = .next { State.reset with agents := s.agents, inputs := rest, busData := s.busData } := by
        rw [State.resetEvent]

end Sys2Proof.Machine

/-! PROOFS. A validator on an emitted OTP (43_block_codec R181): every layer of the text, Alphabet-A, cipher
and `BLK16`, is undone by its inverse. -/

namespace Sys2Proof.Machine

/-! ### The decoders undo the encoders -/

@[simp] theorem mhxDec_mhxEnc (b : List Byte) : mhxDec (mhxEnc b) = .ok b :=
  orInvalidEncoding_eq_ok_iff.mpr (alphaA_table.decodeText_encodeText b)

@[simp] theorem hexDec_hexEnc (b : List Byte) : hexDec (hexEnc b) = .ok b :=
  orInvalidEncoding_eq_ok_iff.mpr (hexD_table.decodeText_encodeText b)

/-- Decryption undoes encryption under the same key (42_cipher_adapter R155 clause 3, log 2). -/
theorem cipherDec_E (key block : Bytes 16) :
    cipherDec key.toList (Config.E key block).toList = .ok block :=
  (cipherCall_toList Config.Dc key _).trans (congrArg _ ((Config.cipher key).symm_apply_apply block))

/-! ### The two parts of an OTP text -/

theorem take_otpText (t : Token) (f : Block) : (otpText t f).take 12 = mhxEnc t.pubId.toList :=
  List.take_left' (length_mhxEnc_toList t.pubId)

theorem drop_otpText (t : Token) (f : Block) :
    (otpText t f).drop 12 = mhxEnc (Config.E t.key (serialize f.stamped)).toList :=
  List.drop_left' (length_mhxEnc_toList t.pubId)

theorem Memory.take_readBytes (m : Memory) {k n : Nat} (h : k ≤ n) :
    (m.readBytes n).take k = m.readBytes k := by
  rw [readBytes, ← List.map_take, List.take_range, Nat.min_eq_left h, readBytes]

/-! ### The block an emission issues -/

/-- `DOUT` of `t` holds the OTP text of a block with the Private ID of `s` and the Counter and Session of `t`
(44_state_machine R211, R212). -/
def State.Issues (s t : State) : Prop :=
  ∃ f : Block, f.uid = s.token.privId ∧ f.ctr = t.token.counter ∧ f.sess = t.token.session ∧
    t.dout = s.dout.writeBytes 0 (otpText s.token f)

/-- Step 7 issues the block that steps 4 to 6 made of the local values. -/
theorem State.Issues.of_emitFinish {s b : State} {l : EmitLocals} {r : BitVec 16}
    (token : b.token = s.token) (dout : b.dout = s.dout) :
    s.Issues (b.emitFinish (l.filled s.token r)) := by
  refine ⟨s.token.emissionBlock (l.filled s.token r), rfl, rfl, rfl, ?_⟩
  rw [← token, ← dout]
  rfl

/-- The error entry writes a code, and no code is 0 (60_exceptions R270). -/
theorem State.err_ne_zero_of_failed (s : State) {t : State} {e : CmdError} {a : Agents}
    (h : t = s.endedErr e a) : t.err ≠ 0 := h ▸ e.code_ne_zero

theorem exec_emitOtp_issues {s t : State} (run : exec .emitOtp s = .next t) (completed : t.completed)
    (noErr : t.err = 0) : s.Issues t := by
  obtain ⟨idle, -⟩ := completed
  cases run
  rcases s.emitRun_cases with ⟨-, run⟩ | ⟨-, -, -, run⟩ | ⟨-, -, ending⟩
  · exact absurd noErr (s.err_ne_zero_of_failed run)
  · exact absurd noErr (s.err_ne_zero_of_failed run)
  · cases ending with
    | failed _ _ _ run => exact absurd noErr (s.err_ne_zero_of_failed run)
    | held _ _ _ run => exact nomatch (run ▸ idle :)
    | done _ _ _ _ _ _ _ _ run => exact run ▸ .of_emitFinish rfl rfl

/-- Of the end of a wait too, whatever local values the command was held with. -/
theorem State.advance_held_issues {s t : State} (held : s.flight.held = true) (run : s.advance = .next t)
    (completed : t.completed) (noErr : t.err = 0) : s.Issues t := by
  obtain ⟨idle, -⟩ := completed
  obtain ⟨l, flight⟩ := Flight.eq_hold_of_held held
  rw [advance_held flight, emitResume_cases l s flight, withNow] at run
  split at run
  · cases run
    rcases emitTail_cases { l with now := s.agents.now.1, ponRand := clearNibble l.ponRand }
      { s with agents := s.agents.now.2, status := s.status.waitOver } with
      ⟨-, run⟩ | ⟨-, run⟩ | ⟨-, r, run⟩
    · exact absurd noErr (s.err_ne_zero_of_failed run)
    · exact absurd noErr (s.err_ne_zero_of_failed run)
    · exact run ▸ .of_emitFinish rfl rfl
  · cases run
    exact nomatch flight.symm.trans idle

/-- Settles O42: the text in `DOUT` is that of a block of the emission; decoding, decryption and `Parse` give
back the stamped block, whose residual is the law of every stamped block. -/
theorem validatorAcceptsEmission : Obligations.ValidatorAcceptsEmission := by
  unfold Obligations.ValidatorAcceptsEmission
  intro s t wf run completed noErr
  have issues : s.Issues t := by
    rcases run with run | ⟨held, run⟩
    · exact exec_emitOtp_issues run completed noErr
    · exact State.advance_held_issues held run completed noErr
  obtain ⟨f, uid, ctr, sess, dout⟩ := issues
  have text : t.dout.readBytes 44 = otpText s.token f := by
    rw [dout, ← length_otpText s.token f]
    exact Memory.readBytes_writeBytes wf _
  have pubText : t.dout.readBytes 12 = mhxEnc s.token.pubId.toList := by
    rw [← Memory.take_readBytes t.dout (by decide : 12 ≤ 44), text, take_otpText]
  have parsed : parseBlock (serialize f.stamped) = f.stamped := parseBlock_serialize _
  refine ⟨_, _, serialize f.stamped, ?pubDecodes, rfl, ?blockDecodes, cipherDec_E _ _, stampedBlockResidual f,
    (congrArg Block.uid parsed).trans uid, (congrArg Block.ctr parsed).trans ctr,
    (congrArg Block.sess parsed).trans sess⟩
  case pubDecodes => rw [pubText, mhxDec_mhxEnc]
  case blockDecodes => rw [text, drop_otpText, mhxDec_mhxEnc]

end Sys2Proof.Machine

/-! PROOFS. The size of a record (45_record R243): the names, separators and byte values are of fixed length,
each of the five numbers has at least one digit. -/

namespace Sys2Proof.Machine

theorem length_decText_pos (v : Nat) : 0 < (decText v).length := List.length_pos_of_ne_nil (decText_ne_nil v)

/-- All but the digits of the five numbers takes 141 bytes. -/
theorem length_render (t : Token) : t.render.length =
    141 + (decText t.counter.toNat).length + (decText t.session.toNat).length +
      (decText t.created.toNat).length + (decText t.lastUse.toNat).length +
      (decText t.ponRand.toNat).length := by
  simp only [Token.render, RecordKey.all, List.flatMap_cons, List.flatMap_nil, Token.recordLine,
    RecordKey.name, Token.valueText, asciiText, mhxEnc, hexEnc, length_encodeText, Vector.length_toList,
    List.length_append, List.length_cons, List.length_nil, List.length_map]
  omega

/-- Settles O46: five numbers of at least one digit each; the upper bound is that of the widths. -/
theorem recordSizeBounds : Obligations.RecordSizeBounds := by
  unfold Obligations.RecordSizeBounds
  refine fun t => ⟨?least, length_render_le t⟩
  have counter := length_decText_pos t.counter.toNat
  have session := length_decText_pos t.session.toNat
  have created := length_decText_pos t.created.toNat
  have lastUse := length_decText_pos t.lastUse.toNat
  have ponRand := length_decText_pos t.ponRand.toNat
  rw [length_render]
  omega

end Sys2Proof.Machine

/-! PROOFS. A rendered record parses back to its token (45_record R241): its bytes but the newlines are above
the space, so that each line is cut and trimmed where it was put together. -/

namespace Sys2Proof.Machine

/-! ### The bytes of a record line -/

theorem exists_sym_of_mem_encodeText {sym : BitVec 4 → Byte} {bs : List Byte} {b : Byte}
    (mem : b ∈ encodeText sym bs) : ∃ k, sym k = b := by
  obtain ⟨x, -, hb⟩ := List.mem_flatMap.mp mem
  rcases List.mem_pair.mp hb with rfl | rfl
  · exact ⟨_, rfl⟩
  · exact ⟨_, rfl⟩

theorem isDigit_of_mem_decText {v : Nat} {b : Byte} (mem : b ∈ decText v) : isDigit b = true :=
  isDigit_of_mem_chars (fun _ => Nat.isDigit_of_mem_toDigits (by decide) (by decide)) b
    (decText_eq_chars v ▸ mem)

/-- Bytes above the space: no blank and no newline is one. -/
def Solid (t : List Byte) : Prop := ∀ b ∈ t, 0x20 < b

namespace Solid

theorem newline_not_mem {t : List Byte} (h : Solid t) : newline ∉ t := fun mem => absurd (h _ mem) (by decide)

theorem isBlank_eq_false {t : List Byte} (h : Solid t) {b : Byte} (mem : b ∈ t) : isBlank b = false :=
  isBlank_eq_false_iff.mpr (by have := h b mem; bv_omega)

theorem mhxEnc (bs : List Byte) : Solid (mhxEnc bs) := fun b mem => by
  obtain ⟨k, rfl⟩ := exists_sym_of_mem_encodeText mem
  exact (by decide : ∀ k, 0x20 < alphaA k) k

theorem hexEnc (bs : List Byte) : Solid (hexEnc bs) := fun b mem => by
  obtain ⟨k, rfl⟩ := exists_sym_of_mem_encodeText mem
  exact (by decide : ∀ k, 0x20 < hexD k) k

theorem decText (v : Nat) : Solid (decText v) := fun b mem => by
  have := isDigit_iff.mp (isDigit_of_mem_decText mem)
  bv_omega

theorem keyName (k : RecordKey) : Solid k.name := fun b mem => by
  have all : k.name.all (fun b => decide (0x20 < b)) = true := by cases k <;> rfl
  exact of_decide_eq_true (List.all_eq_true.mp all b mem)

theorem valueText (t : Token) (k : RecordKey) : Solid (t.valueText k) := by
  cases k with
  | publicId => exact mhxEnc _
  | privateId | aesKey => exact hexEnc _
  | counter | session | created | lastuse | ponrand => exact decText _

end Solid

theorem colon_not_mem_name (k : RecordKey) : colon ∉ k.name := by cases k <;> decide

/-! ### One line -/

/-- A line of the record before its newline (45_record R234). -/
def Token.lineText (t : Token) (k : RecordKey) : List Byte := k.name ++ [colon, 0x20] ++ t.valueText k

theorem Token.recordLine_eq (t : Token) (k : RecordKey) : t.recordLine k = t.lineText k ++ [newline] := rfl

theorem Token.newline_not_mem_lineText (t : Token) (k : RecordKey) : newline ∉ t.lineText k := by
  simp only [lineText, List.mem_append, not_or]
  exact ⟨⟨(Solid.keyName k).newline_not_mem, by decide⟩, (Solid.valueText t k).newline_not_mem⟩

/-- A line is cut into the key and the value it was put together of (45_record R235). -/
theorem Token.splitColon_lineText (t : Token) (k : RecordKey) :
    splitColon (t.lineText k) = some (k.name, t.valueText k) := by
  have ends : ∀ x ∈ [k.name, t.valueText k], ∀ b, x.head? = some b ∨ x.getLast? = some b →
      isBlank b = false := by
    intro x hx b hb
    have solid : Solid x := by
      rcases List.mem_pair.mp hx with rfl | rfl
      · exact .keyName k
      · exact .valueText t k
    exact solid.isBlank_eq_false (hb.elim List.mem_of_head? List.mem_of_getLast?)
  simpa [lineText] using splitColon_padded (b1 := []) (b2 := []) (b3 := [0x20]) (b4 := [])
    (by decide) (colon_not_mem_name k) ends

/-! ### One value -/

@[simp] theorem parseDec_decText {n : Nat} (v : BitVec n) : parseDec n (decText v.toNat) = .ok v := by
  have read := parseDec_padded_decText n 0 v.toNat
  rwa [if_neg (Nat.not_le.mpr v.isLt), BitVec.ofNat_toNat, BitVec.setWidth_eq] at read

/-- `u` with the register of a key copied from `t` (45_record R235 clause 4). -/
def Token.copyTo (t : Token) (u : Token) : RecordKey → Token
  | .publicId => { u with pubId := t.pubId }
  | .privateId => { u with privId := t.privId }
  | .aesKey => { u with key := t.key }
  | .counter => { u with counter := t.counter }
  | .session => { u with session := t.session }
  | .created => { u with created := t.created }
  | .lastuse => { u with lastUse := t.lastUse }
  | .ponrand => { u with ponRand := t.ponRand }

/-- The eight registers are the whole token (10_state R21, R22). -/
theorem Token.foldl_copyTo_all (t u : Token) : RecordKey.all.foldl t.copyTo u = t := by
  simp only [RecordKey.all, List.foldl_cons, List.foldl_nil, copyTo]

/-- The value text of a key is converted back to the register it was written from (45_record R237). -/
theorem Token.loadValue_valueText (t u : Token) (k : RecordKey) :
    loadValue k (t.valueText k) u = .ok (t.copyTo u k) := by
  cases k with
  | publicId => rw [valueText, loadValue, mhxDec_mhxEnc, sizedBytes_toList]; rfl
  | privateId | aesKey => rw [valueText, loadValue, hexDec_hexEnc, sizedBytes_toList]; rfl
  | counter | session | created | lastuse | ponrand => rw [valueText, loadValue, parseDec_decText]; rfl

theorem Token.loadLine_lineText (t u : Token) (k : RecordKey) :
    loadLine (t.lineText k) u = .ok (t.copyTo u k) :=
  (loadLine_known (t.splitColon_lineText k) u).trans (t.loadValue_valueText u k)

/-! ### The whole text -/

/-- Rendered lines are read one key after the other; what follows the last newline is an empty line, which
is skipped (45_record R235). -/
theorem Token.loadLines_recordLines (t : Token) (ks : List RecordKey) (u : Token) :
    loadLines (splitLines (ks.flatMap t.recordLine)) u = .ok (ks.foldl t.copyTo u) := by
  induction ks generalizing u with
  | nil => rfl
  | cons k ks ih =>
    rw [List.flatMap_cons, recordLine_eq, splitLines_append_newline (t.newline_not_mem_lineText k),
      loadLines_cons_ok (t.loadLine_lineText u k), ih, List.foldl_cons]

theorem parseRecord_render (t : Token) : parseRecord t.render = .ok t :=
  (t.loadLines_recordLines RecordKey.all Token.zero).trans (congrArg _ (t.foldl_copyTo_all Token.zero))

/-- A record fits `DIN` (45_record R243). -/
theorem length_render_le_bufCap (t : Token) : t.render.length ≤ Config.bufCap :=
  (length_render_le t).trans ((by decide : 199 ≤ 256).trans Config.bufCap_ge)

/-- Settles O50: `REC_SAVE` answers the record of the token, `REC_LOAD` parses that text back. -/
theorem saveLoadRoundTrip : Obligations.SaveLoadRoundTrip := by
  unfold Obligations.SaveLoadRoundTrip
  intro s present wf
  obtain ⟨-, saves⟩ := recSaveResult
  obtain ⟨t, run, saved⟩ := (saves s wf).1 present
  rw [← render_eq_recordText] at saved
  have fits := length_render_le_bufCap s.token
  have len : t.doutLen.toNat = s.token.render.length := saved.toNat_doutLen (by omega)
  refine ⟨t, run, fun s' now ts dinLen din times notLater => ?_⟩
  have operand : s'.dinOperand = s.token.render := by
    obtain ⟨⟨result, -⟩, -⟩ := saved
    rw [State.dinOperand, dinLen, din, len, result]
  have parsed : parseRecord s'.dinOperand = .ok s.token := by rw [operand, parseRecord_render]
  have load := exec_recLoad_parsed (by rwa [dinLen, len]) parsed times
  rwa [if_neg (BitVec.not_lt.mpr notLater)] at load

end Sys2Proof.Machine
